-- ==== Sys2Proof/Word.lean ====
section
/-! DEFINITION. Words of the RDS accumulator state machine: bytes, 16-bit words and the message version. -/

namespace Sys2Proof

/-- A character: 8 bits (R12, R64). -/
abbrev Byte := BitVec 8

/-- A command word, a payload word or a read register: 16 bits (R10, R40, R81). -/
abbrev Word := BitVec 16

/-- The message version, "enumeration {A, B}" (R122). -/
inductive Version where
  /-- Version A, encoded 0 (R34). -/
  | a
  /-- Version B, encoded 1 (R34). -/
  | b
  deriving DecidableEq, Repr

end Sys2Proof
end

