-- ==== Sys2Proof/Config.lean ====
section
/-! DEFINITION. The implementation parameters of 00_scope.md R8, and their defaults. -/

namespace Sys2Proof

/-- One of the two status words of a block set (R84). -/
inductive StatusWord where
  | s0
  | s1
  deriving DecidableEq, Repr

/-- A function of the two status words as an expression: plain data, so that a parameter can hold one, and rich enough for
every function of S0 and S1 (Obligations.EveryStatusDecodeCanBeSupplied; DESIGN CHOICE, log 3, safe). -/
inductive StatusExpr where
  /-- A constant. -/
  | lit (n : Nat)
  /-- The field of `width` bits from bit `lo` up of a status word. -/
  | field (word : StatusWord) (lo width : Nat)
  /-- A sum of naturals (R10). -/
  | add (x y : StatusExpr)
  /-- `a` where `x` and `y` are equal, else `b`. -/
  | ifEq (x y a b : StatusExpr)
  deriving DecidableEq, Repr

/-- The parameter STATUS_DECODE (R86). -/
inductive StatusDecode where
  /-- The functions SYNC_OF (1 for synchronised), ERRAB_OF and ERRCD_OF as a model for a tuner supplies them. -/
  | given (sync errAb errCd : StatusExpr)
  /-- The three functions of tuner number `tuner`, of which nothing is assumed (DESIGN CHOICE, log 3, safe). -/
  | other (tuner : Nat)
  deriving DecidableEq, Repr

/-- SYNC_OF of a tuner whose layout is not given (R86); a free function. -/
opaque Config.otherSyncOf : Nat → Word → Word → Bool

/-- ERRAB_OF of a tuner whose layout is not given, before it is bounded by ERR_W (R86); a free function. -/
opaque Config.otherErrAbOf : Nat → Word → Word → Nat

/-- ERRCD_OF of a tuner whose layout is not given, before it is bounded by ERR_W (R86); a free function. -/
opaque Config.otherErrCdOf : Nat → Word → Word → Nat

/-- The default STATUS_DECODE: SYNC_OF = S0[12], ERRAB_OF = S1[3:2], ERRCD_OF = S1[1:0], whatever ERR_W is (R86). -/
def StatusDecode.rda5807m : StatusDecode := .given (.field .s0 12 1) (.field .s1 2 2) (.field .s1 0 2)

/-- The parameters of R8, all but PORT_PROTOCOL, which is OPEN and not needed at command level. -/
structure Config where
  /-- NAME_LEN, the characters in the station-name buffers. -/
  nameLen              : Nat
  /-- TEXT_LEN, the characters in the station-text buffers. -/
  textLen              : Nat
  /-- FILL, the space-fill sentinel. -/
  fill                 : Byte
  /-- VALIDITY, the identical completed name cycles needed to promote. -/
  validity             : Nat
  /-- NAME_ERR_MAX, the largest combined error count the name step accepts. -/
  nameErrMax           : Nat
  /-- STRICT_ERR_MAX, the largest combined error count every other decoding accepts. -/
  strictErrMax         : Nat
  /-- NAME_CHAR_MIN, the smallest accepted name character. -/
  nameCharMin          : Nat
  /-- NAME_CHAR_MAX, the largest accepted name character. -/
  nameCharMax          : Nat
  /-- MAX_ATTEMPTS, the host's bound on the UPDATE commands of one name acquisition. It binds the host alone (R6, R150), so
  nothing of the block reads it (DEDUCED, log 20, safe). -/
  maxAttempts          : Nat
  /-- EMERGENCY_CODE, compared with the 3-bit slow-labelling code (DEDUCED, log 17: 3 bits wide, safe). -/
  emergencyCode        : BitVec 3
  /-- ERR_W, the width in bits of each error count. -/
  errW                 : Nat
  /-- STATUS_DECODE. -/
  statusDecode         : StatusDecode
  /-- TA_MS_ALL_GROUPS, whether every usable group refreshes TA and M/S. -/
  taMsAllGroups        : Bool
  /-- PRINTABLE_FAIL_SKIPS_ALL, whether a rejected name pair skips the whole UPDATE. -/
  printableFailSkipsAll : Bool
  deriving DecidableEq, Repr

/-- The default of MAX_ATTEMPTS, 15 × VALIDITY (R8). -/
def Config.defaultMaxAttempts (validity : Nat) : Nat := 15 * validity

/-- The defaults of the table of R8. -/
def Config.default : Config where
  nameLen := 8
  textLen := 64
  fill := 0x20#8
  validity := 4
  nameErrMax := 2
  strictErrMax := 0
  nameCharMin := 33
  nameCharMax := 126
  maxAttempts := Config.defaultMaxAttempts 4
  emergencyCode := 7#3
  errW := 2
  statusDecode := .rda5807m
  taMsAllGroups := true
  printableFailSkipsAll := false

end Sys2Proof
end

