-- ==== Sys2Proof/Syntax.lean ====
section
/-! DEFINITION. The instructions: the four host commands and the nineteen block-B rows of spec/opcode_table.json. -/

namespace Sys2Proof

/-- The payload of an UPDATE: blocks A to D and the status words S0 and S1 (R84). -/
structure RawBlockSet where
  a  : Word
  b  : Word
  c  : Word
  d  : Word
  s0 : Word
  s1 : Word
  deriving DecidableEq, Repr

/-- One constructor per row of spec/opcode_table.json. The commands are what a host presents (R82); a block-B row is
an arm that UPDATE runs for a block set whose block B fits the row (R2, R95; DESIGN CHOICE, log 11, safe). -/
inductive Instr where
  /-- NOP, no effect (R218). -/
  | nop
  /-- UPDATE, one block set through the gate, the classifier and the arms (R212). -/
  | update (bs : RawBlockSet)
  /-- RESET, every element to its reset value (R214). -/
  | reset
  /-- READ of one register (R216). -/
  | read (addr : BitVec 8)
  /-- G0_PS_DI, group 0: name fragment and DI flag (R140, R180). -/
  | g0PsDi (bs : RawBlockSet)
  /-- G0_DI, the DI flag of group 0 alone (R180). -/
  | g0Di (bs : RawBlockSet)
  /-- G1_SL_PIN, group 1: slow-labelling code and PIN (R182). -/
  | g1SlPin (bs : RawBlockSet)
  /-- G2A_RT, group 2A: four text characters (R160, R164). -/
  | g2aRt (bs : RawBlockSet)
  /-- G2B_RT, group 2B: two text characters (R160, R165). -/
  | g2bRt (bs : RawBlockSet)
  /-- G4_CT, group 4: clock time (R185). -/
  | g4Ct (bs : RawBlockSet)
  /-- G3_IGNORED (R193). -/
  | g3Ignored (bs : RawBlockSet)
  /-- G5_IGNORED (R193). -/
  | g5Ignored (bs : RawBlockSet)
  /-- G6_IGNORED (R193). -/
  | g6Ignored (bs : RawBlockSet)
  /-- G7_IGNORED (R193). -/
  | g7Ignored (bs : RawBlockSet)
  /-- G8_IGNORED (R193). -/
  | g8Ignored (bs : RawBlockSet)
  /-- G9_IGNORED (R193). -/
  | g9Ignored (bs : RawBlockSet)
  /-- G10_IGNORED (R193). -/
  | g10Ignored (bs : RawBlockSet)
  /-- G11_IGNORED (R193). -/
  | g11Ignored (bs : RawBlockSet)
  /-- G12_IGNORED (R193). -/
  | g12Ignored (bs : RawBlockSet)
  /-- G13_IGNORED (R193). -/
  | g13Ignored (bs : RawBlockSet)
  /-- G14_IGNORED (R193). -/
  | g14Ignored (bs : RawBlockSet)
  /-- G15_IGNORED (R193). -/
  | g15Ignored (bs : RawBlockSet)
  /-- COMMON, the fields of every group (R190 to R192). -/
  | common (bs : RawBlockSet)
  deriving DecidableEq, Repr

end Sys2Proof
end

