-- ==== Sys2Proof/WellFormed.lean ====
section
/-! DEFINITION. The rows of spec/opcode_table.json as masks and patterns, and the well-formed instructions. -/

namespace Sys2Proof

/-- A row of the opcode table: a word fits it when its bits under `mask` are `pattern`. -/
structure Row where
  pattern : Word
  mask    : Word
  deriving DecidableEq, Repr

/-- The bits of `w` under the row's mask are the row's pattern. -/
def Row.fits (r : Row) (w : Word) : Bool := decide (w &&& r.mask = r.pattern)

/-- The match and mask of each row, as spec/opcode_table.json gives them. -/
def Instr.row : Instr → Row
  | .nop => { pattern := 0x0000#16, mask := 0xFFFF#16 }
  | .update _ => { pattern := 0x1000#16, mask := 0xFFFF#16 }
  | .reset => { pattern := 0x2000#16, mask := 0xFFFF#16 }
  | .read _ => { pattern := 0x3000#16, mask := 0xFF00#16 }
  | .g0PsDi _ => { pattern := 0x0000#16, mask := 0xF000#16 }
  | .g0Di _ => { pattern := 0x0000#16, mask := 0xF000#16 }
  | .g1SlPin _ => { pattern := 0x1000#16, mask := 0xF000#16 }
  | .g2aRt _ => { pattern := 0x2000#16, mask := 0xF800#16 }
  | .g2bRt _ => { pattern := 0x2800#16, mask := 0xF800#16 }
  | .g4Ct _ => { pattern := 0x4000#16, mask := 0xF000#16 }
  | .g3Ignored _ => { pattern := 0x3000#16, mask := 0xF000#16 }
  | .g5Ignored _ => { pattern := 0x5000#16, mask := 0xF000#16 }
  | .g6Ignored _ => { pattern := 0x6000#16, mask := 0xF000#16 }
  | .g7Ignored _ => { pattern := 0x7000#16, mask := 0xF000#16 }
  | .g8Ignored _ => { pattern := 0x8000#16, mask := 0xF000#16 }
  | .g9Ignored _ => { pattern := 0x9000#16, mask := 0xF000#16 }
  | .g10Ignored _ => { pattern := 0xA000#16, mask := 0xF000#16 }
  | .g11Ignored _ => { pattern := 0xB000#16, mask := 0xF000#16 }
  | .g12Ignored _ => { pattern := 0xC000#16, mask := 0xF000#16 }
  | .g13Ignored _ => { pattern := 0xD000#16, mask := 0xF000#16 }
  | .g14Ignored _ => { pattern := 0xE000#16, mask := 0xF000#16 }
  | .g15Ignored _ => { pattern := 0xF000#16, mask := 0xF000#16 }
  | .common _ => { pattern := 0x0000#16, mask := 0x0000#16 }

/-- The block set a block-B row carries; none for a host command. -/
def Instr.armSet : Instr → Option RawBlockSet
  | .nop => none
  | .update _ => none
  | .reset => none
  | .read _ => none
  | .g0PsDi bs => some bs
  | .g0Di bs => some bs
  | .g1SlPin bs => some bs
  | .g2aRt bs => some bs
  | .g2bRt bs => some bs
  | .g4Ct bs => some bs
  | .g3Ignored bs => some bs
  | .g5Ignored bs => some bs
  | .g6Ignored bs => some bs
  | .g7Ignored bs => some bs
  | .g8Ignored bs => some bs
  | .g9Ignored bs => some bs
  | .g10Ignored bs => some bs
  | .g11Ignored bs => some bs
  | .g12Ignored bs => some bs
  | .g13Ignored bs => some bs
  | .g14Ignored bs => some bs
  | .g15Ignored bs => some bs
  | .common bs => some bs

/-- A host command, as against a block-B row (R82). -/
def Instr.isCommand (i : Instr) : Bool := i.armSet.isNone

/-- A block-B row is well formed when its block B fits the row (R95); every operand of a command is legal (R49, R96).
DESIGN CHOICE (log 23), safe: exec does not ask for it. -/
def Instr.wf (i : Instr) : Bool :=
  match i.armSet with
  | none => true
  | some bs => i.row.fits bs.b

end Sys2Proof
end

