-- ==== Sys2Proof/Decode.lean ====
section
/-! DEFINITION. Decoding of command words and block sets, total on any words, and the encoder (30_encoding.md). -/

namespace Sys2Proof

/-! ### Fields of a command word (R81) -/

/-- `op`, bits 15:12. -/
def cmdOp (w : Word) : BitVec 4 := w.extractLsb' 12 4

/-- `rsv`, bits 11:8. -/
def cmdRsv (w : Word) : BitVec 4 := w.extractLsb' 8 4

/-- `addr`, bits 7:0. -/
def cmdAddr (w : Word) : BitVec 8 := w.extractLsb' 0 8

/-- A legal command word: R83 makes illegal `op` in 4 to 15, `rsv` not 0, and `addr` not 0 outside READ. -/
def legalCommand (w : Word) : Bool :=
  decide ((cmdOp w).toNat ≤ 3) && decide (cmdRsv w = 0#4)
    && (decide (cmdOp w = 3#4) || decide (cmdAddr w = 0#8))

/-! ### CLASSIFY: the fields of block B every group has (R88, R120 to R123) -/

/-- The group type, B[15:12] (R121). -/
def RawBlockSet.groupType (bs : RawBlockSet) : BitVec 4 := bs.b.extractLsb' 12 4

/-- The message version, B[11] (R122). -/
def RawBlockSet.version (bs : RawBlockSet) : Version := if bs.b.getLsbD 11 then .b else .a

/-- The name segment index, B[1:0] (R123). -/
def RawBlockSet.seg2 (bs : RawBlockSet) : BitVec 2 := bs.b.extractLsb' 0 2

/-- The text segment index, B[3:0] (R123). -/
def RawBlockSet.seg4 (bs : RawBlockSet) : BitVec 4 := bs.b.extractLsb' 0 4

/-! ### The decoder -/

/-- Why a list of words is no command. -/
inductive DecodeError where
  /-- No word at all. -/
  | noCommand
  /-- The command word is illegal (R83). -/
  | illegalCommand
  /-- An UPDATE word with fewer than six payload words after it (R85). -/
  | incompleteCommand
  deriving DecidableEq, Repr

/-- The command that begins a list of words and the words after it: the command word, then six payload words
exactly when `op` is 1 (R82, R84, R85). -/
def decode : List Word → Except DecodeError (Instr × List Word)
  | [] => .error .noCommand
  | w :: rest =>
    if legalCommand w then
      if cmdOp w = 0#4 then .ok (.nop, rest)
      else if cmdOp w = 1#4 then
        match rest with
        | a :: b :: c :: d :: s0 :: s1 :: rest' =>
          .ok (.update { a := a, b := b, c := c, d := d, s0 := s0, s1 := s1 }, rest')
        | _ => .error .incompleteCommand
      else if cmdOp w = 2#4 then .ok (.reset, rest)
      else .ok (.read (cmdAddr w), rest)
    else .error .illegalCommand

/-- The six words of a block set, in payload order (R84), and the words after them. -/
def decodeBlockSet : List Word → Option (RawBlockSet × List Word)
  | a :: b :: c :: d :: s0 :: s1 :: rest => some ({ a := a, b := b, c := c, d := d, s0 := s0, s1 := s1 }, rest)
  | _ => none

/-- The row of a block set's group type and version: the dispatch map of R95. No block set is illegal (R96). -/
def groupRow (bs : RawBlockSet) : Instr :=
  match bs.groupType.toNat with
  | 0 => .g0PsDi bs
  | 1 => .g1SlPin bs
  | 2 => match bs.version with
    | .a => .g2aRt bs
    | .b => .g2bRt bs
  | 3 => .g3Ignored bs
  | 4 => .g4Ct bs
  | 5 => .g5Ignored bs
  | 6 => .g6Ignored bs
  | 7 => .g7Ignored bs
  | 8 => .g8Ignored bs
  | 9 => .g9Ignored bs
  | 10 => .g10Ignored bs
  | 11 => .g11Ignored bs
  | 12 => .g12Ignored bs
  | 13 => .g13Ignored bs
  | 14 => .g14Ignored bs
  | _ => .g15Ignored bs

/-- Every block-B row of the table that a block set fits, in the table's order: the row of its group, for group 0
the second row G0_DI as well (90_conflicts.md C3), and COMMON (R95). -/
def rowsOf (bs : RawBlockSet) : List Instr :=
  if bs.groupType = 0#4 then [groupRow bs, .g0Di bs, .common bs] else [groupRow bs, .common bs]

/-! ### The encoder -/

/-- A block set as its six payload words (R84). -/
def RawBlockSet.words (bs : RawBlockSet) : List Word := [bs.a, bs.b, bs.c, bs.d, bs.s0, bs.s1]

/-- The words of an instruction: of a command the words the host presents (R84, R97), of a block-B row the six words
of its block set. -/
def encode : Instr → List Word
  | .nop => [0x0000#16]
  | .update bs => 0x1000#16 :: bs.words
  | .reset => [0x2000#16]
  | .read addr => [0x30#8 ++ addr]
  | .g0PsDi bs => bs.words
  | .g0Di bs => bs.words
  | .g1SlPin bs => bs.words
  | .g2aRt bs => bs.words
  | .g2bRt bs => bs.words
  | .g4Ct bs => bs.words
  | .g3Ignored bs => bs.words
  | .g5Ignored bs => bs.words
  | .g6Ignored bs => bs.words
  | .g7Ignored bs => bs.words
  | .g8Ignored bs => bs.words
  | .g9Ignored bs => bs.words
  | .g10Ignored bs => bs.words
  | .g11Ignored bs => bs.words
  | .g12Ignored bs => bs.words
  | .g13Ignored bs => bs.words
  | .g14Ignored bs => bs.words
  | .g15Ignored bs => bs.words
  | .common bs => bs.words

/-! ### Words numbered as the opcode table numbers them -/

/-- The seven words of an instruction numbered as spec/opcode_table.json numbers bits, zero above `nbits`. -/
def tableWords (nbits w : Nat) : List Word :=
  (List.range 7).map fun k => BitVec.ofNat 16 (w % 2 ^ nbits / 2 ^ (16 * k))

/-- A block-B row's word as a block set: block B is the word, the other blocks are 0, and S0 = 0x1000 with S1 = 0 is
the constant of R98 that passes the gate, without which no arm runs (DESIGN CHOICE, log 16, safe). -/
def tableBlockSet (w : Nat) : RawBlockSet :=
  { a := 0#16, b := BitVec.ofNat 16 w, c := 0#16, d := 0#16, s0 := 0x1000#16, s1 := 0#16 }

/-- The instruction of a word of the opcode table: the first row of the table that fits, so a word that is a legal
command is that command, and a word that is not is read as block B (DESIGN CHOICE, log 15, safe). -/
def decodeTableWord (nbits w : Nat) : Option Instr :=
  match decode (tableWords nbits w) with
  | .ok (i, _) => some i
  | .error _ => if nbits = 16 then some (groupRow (tableBlockSet w)) else none

end Sys2Proof
end

