-- ==== Sys2Proof/Machine/Operands.lean ====
section
/-! DEFINITION. The operand fields of a block set, by group type (30_encoding.md R87 to R92), the status
expressions, and which configurations are legal (00_scope.md R9). -/

namespace Sys2Proof

/-- Bits 15:8 of a word: the first of its two characters (R61, R89, R91). -/
def hiByte (w : Word) : Byte := w.extractLsb' 8 8

/-- Bits 7:0 of a word: the second of its two characters (R61, R89, R91). -/
def loByte (w : Word) : Byte := w.extractLsb' 0 8

/-- The country code, A[15:12] (R87). -/
def RawBlockSet.country (bs : RawBlockSet) : BitVec 4 := bs.a.extractLsb' 12 4

/-- The program-area code, A[11:8] (R87). -/
def RawBlockSet.area (bs : RawBlockSet) : BitVec 4 := bs.a.extractLsb' 8 4

/-- The program-reference number, A[7:0] (R87). -/
def RawBlockSet.ref (bs : RawBlockSet) : BitVec 8 := bs.a.extractLsb' 0 8

/-- The TP flag, B[10] (R88). -/
def RawBlockSet.tp (bs : RawBlockSet) : Bool := bs.b.getLsbD 10

/-- The program type, B[9:5] (R88). -/
def RawBlockSet.pty (bs : RawBlockSet) : BitVec 5 := bs.b.extractLsb' 5 5

/-- The TA flag, B[4] (R89, R192). -/
def RawBlockSet.ta (bs : RawBlockSet) : Bool := bs.b.getLsbD 4

/-- The music/speech flag, B[3] (R89, R192). -/
def RawBlockSet.ms (bs : RawBlockSet) : Bool := bs.b.getLsbD 3

/-- Group 0: the decoder-identification bit, B[2] (R89). -/
def RawBlockSet.di (bs : RawBlockSet) : Bool := bs.b.getLsbD 2

/-- Group 1: the slow-labelling code, C[14:12] (R90). -/
def RawBlockSet.slowLabel (bs : RawBlockSet) : BitVec 3 := bs.c.extractLsb' 12 3

/-- Group 1: the day of the programme item number, D[15:11] (R90). -/
def RawBlockSet.pinDay (bs : RawBlockSet) : BitVec 5 := bs.d.extractLsb' 11 5

/-- Group 1: the hour of the programme item number, D[10:6] (R90). -/
def RawBlockSet.pinHour (bs : RawBlockSet) : BitVec 5 := bs.d.extractLsb' 6 5

/-- Group 1: the minute of the programme item number, D[5:0] (R90). -/
def RawBlockSet.pinMinute (bs : RawBlockSet) : BitVec 6 := bs.d.extractLsb' 0 6

/-- Group 2: the text A/B flag, B[4] (R91). -/
def RawBlockSet.textAb (bs : RawBlockSet) : Bool := bs.b.getLsbD 4

/-- Group 4: the hour, C[0] :: D[15:12] (R92, R94). -/
def RawBlockSet.hour (bs : RawBlockSet) : BitVec 5 := bs.c.extractLsb' 0 1 ++ bs.d.extractLsb' 12 4

/-- Group 4: the minute, D[11:6] (R92). -/
def RawBlockSet.minute (bs : RawBlockSet) : BitVec 6 := bs.d.extractLsb' 6 6

/-- The status word of a block set by its name (R84). -/
def RawBlockSet.status (bs : RawBlockSet) : StatusWord → Word
  | .s0 => bs.s0
  | .s1 => bs.s1

/-- The value of an expression over the status words (R10, R86). -/
def RawBlockSet.statusValue (bs : RawBlockSet) : StatusExpr → Nat
  | .lit n => n
  | .field word lo width => (bs.status word).toNat / 2 ^ lo % 2 ^ width
  | .add x y => bs.statusValue x + bs.statusValue y
  | .ifEq x y a b => if bs.statusValue x = bs.statusValue y then bs.statusValue a else bs.statusValue b

/-- A name fragment's first position, `2 * off` (R94, R145). -/
def RawBlockSet.namePos (bs : RawBlockSet) : Nat := 2 * bs.seg2.toNat

/-- A version-A text fragment's first position, `4 * idx` (R94, R164). -/
def RawBlockSet.textPosA (bs : RawBlockSet) : Nat := 4 * bs.seg4.toNat

/-- A version-B text fragment's first position, `2 * idx` (R94, R165; 90_conflicts.md C1). -/
def RawBlockSet.textPosB (bs : RawBlockSet) : Nat := 2 * bs.seg4.toNat

/-! ### Legal configurations -/

/-- A number that no value of the expression exceeds. -/
def StatusExpr.bound : StatusExpr → Nat
  | .lit n => n
  | .field _ _ width => 2 ^ width - 1
  | .add x y => x.bound + y.bound
  | .ifEq _ _ a b => max a.bound b.bound

/-- "each must return a bit for SYNC_OF and a natural below 2^ERR_W for the other two" (R86), seen from the form of the
expressions; the free functions of another tuner are reduced to it. -/
def StatusDecode.conforms (errW : Nat) : StatusDecode → Bool
  | .given sync errAb errCd =>
    decide (sync.bound ≤ 1) && decide (errAb.bound < 2 ^ errW) && decide (errCd.bound < 2 ^ errW)
  | .other _ => true

/-- A configuration a model accepts: R9 refuses VALIDITY = 0, NAME_CHAR_MIN > NAME_CHAR_MAX and ERR_W = 0. Refused too are
VALIDITY above 255, outside the legal values of R8 (DEDUCED, log 4, safe), buffers too short for the writes that R65 finds
in bounds, "index 7 < NAME_LEN" and "index 63 < TEXT_LEN" (DEDUCED, log 2, safe), and a STATUS_DECODE that does not return
what R86 says it must (DEDUCED, log 3, safe). -/
def Config.legal (c : Config) : Bool :=
  decide (1 ≤ c.validity) && decide (c.validity ≤ 255) && decide (c.nameCharMin ≤ c.nameCharMax)
    && decide (c.errW ≠ 0) && decide (7 < c.nameLen) && decide (63 < c.textLen) && c.statusDecode.conforms c.errW

end Sys2Proof
end

