-- ==== Sys2Proof/Machine/State.lean ====
section
/-! DEFINITION. The state of the block (10_state.md R22) with its reset values (R51), and the reasons a step can stop. -/

namespace Sys2Proof.Machine

/-- The name accumulator (R23). Its buffers hold NAME_LEN bytes each (State.Sized). -/
structure NameAcc where
  /-- `rx_name`, the working buffer. -/
  rxName      : List Byte
  /-- `cand_name`, the last fully assembled sweep. -/
  candName    : List Byte
  /-- `name_cycles`, the identical completed sweeps counted so far. -/
  nameCycles  : BitVec 8
  /-- `name_last_off`, the segment index of the last fragment written. -/
  nameLastOff : BitVec 2
  deriving DecidableEq, Repr

/-- The text accumulator (R24). Its buffer holds TEXT_LEN bytes (State.Sized). -/
structure TextAcc where
  /-- `rx_text`, the working buffer. -/
  rxText      : List Byte
  /-- `text_last_off`, the segment index of the last fragment written. -/
  textLastOff : BitVec 4
  /-- `text_ab_last`, the last text A/B flag seen. -/
  textAbLast  : Bool
  /-- `text_ab_valid`, whether a text A/B flag has been seen since reset. -/
  textAbValid : Bool
  deriving DecidableEq, Repr

/-- The Record (R30 to R39). Its buffers hold NAME_LEN and TEXT_LEN bytes (State.Sized). -/
structure Record where
  /-- `acc_name`, the accepted station name (R31). -/
  accName     : List Byte
  /-- `acc_text`, the accepted station text (R31). -/
  accText     : List Byte
  /-- `hours` (R32). -/
  hours       : BitVec 5
  /-- `minutes` (R32). -/
  minutes     : BitVec 6
  /-- `country` (R33). -/
  country     : BitVec 4
  /-- `area` (R33). -/
  area        : BitVec 4
  /-- `ref` (R33). -/
  ref         : BitVec 8
  /-- `pty` (R34). -/
  pty         : BitVec 5
  /-- `version` (R34). -/
  version     : Version
  /-- `tp` (R35). -/
  tp          : Bool
  /-- `ta` (R35). -/
  ta          : Bool
  /-- `ms` (R35). -/
  ms          : Bool
  /-- `stereo` (R36). -/
  stereo      : Bool
  /-- `compressed` (R36). -/
  compressed  : Bool
  /-- `dyn_pty` (R36). -/
  dynPty      : Bool
  /-- `emergency` (R37). -/
  emergency   : Bool
  /-- `clear_screen` (R38). -/
  clearScreen : Bool
  /-- `pin_day` (R39). -/
  pinDay      : BitVec 5
  /-- `pin_hour` (R39). -/
  pinHour     : BitVec 5
  /-- `pin_minute` (R39). -/
  pinMinute   : BitVec 6
  deriving DecidableEq, Repr

/-- The state: the three structures of R22 and the model's own fields. -/
structure State where
  /-- The parameters of R8; no command changes them (R9). DESIGN CHOICE (log 1), safe. -/
  cfg      : Config
  /-- The name accumulator. -/
  name     : NameAcc
  /-- The text accumulator. -/
  text     : TextAcc
  /-- The Record. -/
  record   : Record
  /-- The command words the host has presented and the block has not taken yet, first word first (R80, R85).
  DESIGN CHOICE (log 6), safe. -/
  pending  : List Word
  /-- The response of the command performed last (R80). DESIGN CHOICE (log 7), safe. -/
  response : Option Word
  deriving DecidableEq, Repr

/-- No fault exists: "The block raises no exception, takes no trap and reports no error to the host" (R240, R248).
Nobody raises one; safe. -/
inductive Fault where
  deriving DecidableEq, Repr

/-- Why the model gives a step no successor state. -/
inductive Refusal where
  /-- An arm of exec without a meaning; raised by exec alone, and no arm raises it now. Safe. -/
  | notModelled (mnemonic : String)
  /-- An illegal command word (R83, R245); raised by the fetch of step. Safe. -/
  | illegalCommand
  /-- An UPDATE word without all its payload words (log 9); raised by the fetch of step. Safe. -/
  | incompleteCommand
  /-- An illegal configuration (R9; DEDUCED, log 2, log 3, log 4); raised by the fetch of step. Safe. -/
  | illegalConfig
  deriving DecidableEq, Repr

/-- The name accumulator at reset: both buffers FILL, both counters 0 (R51). -/
def NameAcc.reset (cfg : Config) : NameAcc where
  rxName := List.replicate cfg.nameLen cfg.fill
  candName := List.replicate cfg.nameLen cfg.fill
  nameCycles := 0#8
  nameLastOff := 0#2

/-- The text accumulator at reset: the buffer FILL, everything else 0 (R51). -/
def TextAcc.reset (cfg : Config) : TextAcc where
  rxText := List.replicate cfg.textLen cfg.fill
  textLastOff := 0#4
  textAbLast := false
  textAbValid := false

/-- The Record at reset: both buffers FILL, version A, everything else 0 (R51). -/
def Record.reset (cfg : Config) : Record where
  accName := List.replicate cfg.nameLen cfg.fill
  accText := List.replicate cfg.textLen cfg.fill
  hours := 0#5
  minutes := 0#6
  country := 0#4
  area := 0#4
  ref := 0#8
  pty := 0#5
  version := .a
  tp := false
  ta := false
  ms := false
  stereo := false
  compressed := false
  dynPty := false
  emergency := false
  clearScreen := false
  pinDay := 0#5
  pinHour := 0#5
  pinMinute := 0#6

/-- An instance with the parameters `cfg` at power-up: the reset state (R260, R261), nothing presented yet. -/
def State.powerUp (cfg : Config) : State where
  cfg := cfg
  name := .reset cfg
  text := .reset cfg
  record := .reset cfg
  pending := []
  response := none

/-- The state right after reset, with the default parameters of R8 (R51, R260). -/
def State.reset : State := .powerUp .default

/-- `s` with another name accumulator. -/
def State.withName (s : State) (n : NameAcc) : State := { s with name := n }

/-- `s` with another text accumulator. -/
def State.withText (s : State) (t : TextAcc) : State := { s with text := t }

/-- `s` with another Record. -/
def State.withRecord (s : State) (r : Record) : State := { s with record := r }

/-- `s` with other words pending. -/
def State.withPending (s : State) (ws : List Word) : State := { s with pending := ws }

/-- `s` with another response. -/
def State.withResponse (s : State) (r : Option Word) : State := { s with response := r }

end Sys2Proof.Machine
end

