-- ==== Sys2Proof/Machine/Flags.lean ====
section
/-! DEFINITION. The verdicts of the quality gate, the character check and the flag computations. -/

namespace Sys2Proof.Machine

/-! ### The quality gate (40_classifier_gate.md) -/

/-- SYNC_OF of STATUS_DECODE (R86). -/
def syncOf (cfg : Config) (bs : RawBlockSet) : Bool :=
  match cfg.statusDecode with
  | .given sync _ _ => decide (bs.statusValue sync = 1)
  | .other tuner => Config.otherSyncOf tuner bs.s0 bs.s1

/-- ERRAB_OF of STATUS_DECODE; below 2^ERR_W in a legal configuration (R86). -/
def errAbOf (cfg : Config) (bs : RawBlockSet) : Nat :=
  match cfg.statusDecode with
  | .given _ errAb _ => bs.statusValue errAb
  | .other tuner => Config.otherErrAbOf tuner bs.s0 bs.s1 % 2 ^ cfg.errW

/-- ERRCD_OF of STATUS_DECODE; below 2^ERR_W in a legal configuration (R86). -/
def errCdOf (cfg : Config) (bs : RawBlockSet) : Nat :=
  match cfg.statusDecode with
  | .given _ _ errCd => bs.statusValue errCd
  | .other tuner => Config.otherErrCdOf tuner bs.s0 bs.s1 % 2 ^ cfg.errW

/-- `esum`, the combined error count: the sum, without wrap-around (R124, R126). -/
def esum (cfg : Config) (bs : RawBlockSet) : Nat := errAbOf cfg bs + errCdOf cfg bs

/-- `usable_name`, the name verdict (R124). -/
def usableName (cfg : Config) (bs : RawBlockSet) : Bool :=
  syncOf cfg bs && decide (esum cfg bs ≤ cfg.nameErrMax)

/-- `usable_strict`, the strict verdict (R125). -/
def usableStrict (cfg : Config) (bs : RawBlockSet) : Bool :=
  syncOf cfg bs && decide (esum cfg bs ≤ cfg.strictErrMax)

/-! ### The character check (R141) -/

/-- One character lies in NAME_CHAR_MIN to NAME_CHAR_MAX inclusive. -/
def charAccepted (cfg : Config) (c : Byte) : Bool :=
  decide (cfg.nameCharMin ≤ c.toNat) && decide (c.toNat ≤ cfg.nameCharMax)

/-- Both characters of a name fragment are accepted. -/
def pairAccepted (cfg : Config) (d : Word) : Bool :=
  charAccepted cfg (hiByte d) && charAccepted cfg (loByte d)

/-- The whole UPDATE is skipped: PRINTABLE_FAIL_SKIPS_ALL holds and a usable group-0 name pair is rejected (R141, R212). -/
def tickSkipped (cfg : Config) (bs : RawBlockSet) : Bool :=
  cfg.printableFailSkipsAll && decide (bs.groupType = 0#4) && usableName cfg bs && !pairAccepted cfg bs.d

/-! ### Events and flags -/

/-- A name wrap: `off < name_last_off` (R142). -/
def nameWrap (bs : RawBlockSet) (n : NameAcc) : Bool := decide (bs.seg2.toNat < n.nameLastOff.toNat)

/-- A text wrap: `idx < text_last_off`, on the raw index in both versions (R162, R170). -/
def textWrap (bs : RawBlockSet) (t : TextAcc) : Bool := decide (bs.seg4.toNat < t.textLastOff.toNat)

/-- The text A/B flag toggles: one was seen before and this one differs (R167). -/
def textToggled (bs : RawBlockSet) (t : TextAcc) : Bool := t.textAbValid && (bs.textAb != t.textAbLast)

/-- `emergency` as a group 1 writes it: the code is EMERGENCY_CODE (R183). -/
def emergencyOf (cfg : Config) (bs : RawBlockSet) : Bool := decide (bs.slowLabel = cfg.emergencyCode)

/-- The decoded time lies in 0 to 23 hours and 0 to 59 minutes (R186). -/
def timeInRange (bs : RawBlockSet) : Bool := decide (bs.hour.toNat ≤ 23) && decide (bs.minute.toNat ≤ 59)

/-- TA and M/S are refreshed from this block set's group type (R192). -/
def refreshesTaMs (cfg : Config) (bs : RawBlockSet) : Bool := cfg.taMsAllGroups || decide (bs.groupType = 0#4)

/-- The DI flag of group 0, keyed by the current segment index: 0 dynamic PTY, 1 compressed, 2 none, 3 stereo (R180, R181). -/
def setDiFlag (bs : RawBlockSet) (r : Record) : Record :=
  match bs.seg2.toNat with
  | 0 => { r with dynPty := bs.di }
  | 1 => { r with compressed := bs.di }
  | 2 => r
  | _ => { r with stereo := bs.di }

/-- The encoding of the version tag, 0 for A and 1 for B (R34, R42). -/
def versionBit : Version → Bool
  | .a => false
  | .b => true

/-- One bit as a vector: 1 for true (R12). -/
def bit (p : Bool) : BitVec 1 := BitVec.ofBool p

/-- The FLAGS register (R43). -/
def flagsWord (r : Record) : Word :=
  0#9 ++ bit r.emergency ++ bit r.dynPty ++ bit r.compressed ++ bit r.stereo ++ bit r.ms ++ bit r.ta ++ bit r.tp

end Sys2Proof.Machine
end

