-- ==== Sys2Proof/Machine/Ops.lean ====
section
/-! DEFINITION. The shared operations: buffers, the read register map, the steps of the accumulators, the extractors,
the fetch of a command. The block takes no exception and returns from none (R240, R248), so no operation does. -/

namespace Sys2Proof.Machine

/-! ### Buffers (20_memory.md) -/

/-- The byte at a position. Every position the rules form is in range (R65); the 0 is never read (DESIGN CHOICE, log 22, safe). -/
def getByte (v : List Byte) (i : Nat) : Byte := (v[i]?).getD 0#8

/-- A block's two characters stored at positions `i` and `i+1`, high byte first (R61). -/
def setPair (v : List Byte) (i : Nat) (w : Word) : List Byte := (v.set i (hiByte w)).set (i + 1) (loByte w)

/-- The characters at positions `i` and `i+1` as one word, the first in bits 15:8 (R47, R48). -/
def pairAt (v : List Byte) (i : Nat) : Word := getByte v i ++ getByte v (i + 1)

/-! ### The read register map (10_state.md R40 to R49) -/

/-- `RegRead(addr)`, the value before any side effect. -/
def regRead (r : Record) (addr : BitVec 8) : Word :=
  if addr = 0x00#8 then r.country ++ r.area ++ r.ref
  else if addr = 0x01#8 then 0#7 ++ bit (versionBit r.version) ++ 0#3 ++ r.pty
  else if addr = 0x02#8 then flagsWord r
  else if addr = 0x03#8 then 0#15 ++ bit r.clearScreen
  else if addr = 0x04#8 then 0#3 ++ r.hours ++ 0#2 ++ r.minutes
  else if addr = 0x05#8 then r.pinDay ++ r.pinHour ++ r.pinMinute
  else if 0x10 ≤ addr.toNat ∧ addr.toNat ≤ 0x13 then pairAt r.accName (2 * (addr.toNat - 0x10))
  else if 0x40 ≤ addr.toNat ∧ addr.toNat ≤ 0x5F then pairAt r.accText (2 * (addr.toNat - 0x40))
  else 0#16

/-- READ: the register's value as the response; a read of CLRSCR clears `clear_screen` (R44, R216). -/
def readRegister (addr : BitVec 8) (s : State) : State :=
  (if addr = 0x03#8 then s.withRecord { s.record with clearScreen := false } else s).withResponse
    (some (regRead s.record addr))

/-! ### Guards of the arms -/

/-- `f` under the name verdict (R127). -/
def whenName (bs : RawBlockSet) (f : State → State) (s : State) : State :=
  if usableName s.cfg bs then f s else s

/-- `f` under the strict verdict (R127). -/
def whenStrict (bs : RawBlockSet) (f : State → State) (s : State) : State :=
  if usableStrict s.cfg bs then f s else s

/-- `f` unless the whole UPDATE is skipped (R141, R212). -/
def unlessSkipped (bs : RawBlockSet) (f : State → State) (s : State) : State :=
  if tickSkipped s.cfg bs then s else f s

/-! ### The name accumulator (41_name_accumulator.md) -/

/-- Validation and promotion at a wrap (R144). -/
def validateSweep (s : State) : State :=
  if s.name.rxName = s.name.candName then
    if s.cfg.validity ≤ s.name.nameCycles.toNat + 1 then
      (s.withRecord { s.record with accName := s.name.rxName }).withName { s.name with nameCycles := 0#8 }
    else s.withName { s.name with nameCycles := s.name.nameCycles + 1#8 }
  else s.withName { s.name with candName := s.name.rxName, nameCycles := 0#8 }

/-- The write of an accepted name fragment (R145). -/
def writeNameFragment (bs : RawBlockSet) (s : State) : State :=
  s.withName { s.name with rxName := setPair s.name.rxName bs.namePos bs.d, nameLastOff := bs.seg2 }

/-- NAME_STEP: the character check, the wrap, then the write (R140, R143). -/
def nameStep (bs : RawBlockSet) (s : State) : State :=
  if pairAccepted s.cfg bs.d then
    writeNameFragment bs (if nameWrap bs s.name then validateSweep s else s)
  else s

/-! ### The text accumulator (42_text_accumulator.md) -/

/-- The A/B flag is recorded, and sets `clear_screen` when it toggles (R167). -/
def noteTextAb (bs : RawBlockSet) (s : State) : State :=
  (if textToggled bs s.text then s.withRecord { s.record with clearScreen := true } else s).withText
    { s.text with textAbLast := bs.textAb, textAbValid := true }

/-- The promotion of a completed text sweep (R163). -/
def promoteText (s : State) : State := s.withRecord { s.record with accText := s.text.rxText }

/-- The buffer after a text fragment: four characters in version A (R164, R62), two in version B (R165, R61). -/
def textFragment (ver : Version) (bs : RawBlockSet) (v : List Byte) : List Byte :=
  match ver with
  | .a => setPair (setPair v bs.textPosA bs.c) (bs.textPosA + 2) bs.d
  | .b => setPair v bs.textPosB bs.d

/-- The write of a text fragment (R164 to R166). -/
def writeTextFragment (ver : Version) (bs : RawBlockSet) (s : State) : State :=
  s.withText { s.text with rxText := textFragment ver bs s.text.rxText, textLastOff := bs.seg4 }

/-- TEXT_STEP: the A/B flag, the wrap, then the write (R160). -/
def textStep (ver : Version) (bs : RawBlockSet) (s : State) : State :=
  writeTextFragment ver bs (if textWrap bs s.text then promoteText (noteTextAb bs s) else noteTextAb bs s)

/-! ### The field extractors (43_field_extractors.md) -/

/-- G0_DI (R180). -/
def diStep (bs : RawBlockSet) (s : State) : State := s.withRecord (setDiFlag bs s.record)

/-- G1: `emergency` and the programme item number, stored raw (R182 to R184). -/
def slowLabelStep (bs : RawBlockSet) (s : State) : State :=
  s.withRecord { s.record with
    emergency := emergencyOf s.cfg bs
    pinDay := bs.pinDay
    pinHour := bs.pinHour
    pinMinute := bs.pinMinute }

/-- G4: the clock time, unless it is out of range (R185, R186). -/
def clockStep (bs : RawBlockSet) (s : State) : State :=
  if timeInRange bs then s.withRecord { s.record with hours := bs.hour, minutes := bs.minute } else s

/-- TA and M/S of the Record (R192). -/
def setTaMs (cfg : Config) (bs : RawBlockSet) (r : Record) : Record :=
  if refreshesTaMs cfg bs then { r with ta := bs.ta, ms := bs.ms } else r

/-- COMMON: the PI fields (R190), PTY, TP and version (R191), TA and M/S (R192). -/
def commonStep (bs : RawBlockSet) (s : State) : State :=
  s.withRecord (setTaMs s.cfg bs { s.record with
    country := bs.country
    area := bs.area
    ref := bs.ref
    pty := bs.pty
    tp := bs.tp
    version := bs.version })

/-- A group type without an arm: only the common fields, under the strict verdict (R193). -/
def ignoredGroup (bs : RawBlockSet) (s : State) : State := whenStrict bs (commonStep bs) s

/-! ### UPDATE and RESET (44_commands.md) -/

/-- The group arms of UPDATE, in the order of R212. -/
def groupArms (bs : RawBlockSet) (s : State) : State :=
  if bs.groupType = 0#4 then whenStrict bs (diStep bs) (whenName bs (nameStep bs) s)
  else if bs.groupType = 1#4 then whenStrict bs (slowLabelStep bs) s
  else if bs.groupType = 2#4 then whenStrict bs (textStep bs.version bs) s
  else if bs.groupType = 4#4 then whenStrict bs (clockStep bs) s
  else s

/-- UPDATE (R212). -/
def updateBlock (bs : RawBlockSet) (s : State) : State :=
  if tickSkipped s.cfg bs then s else whenStrict bs (commonStep bs) (groupArms bs s)

/-- RESET: every element of R22 takes its reset value; the parameters and the host's words stay (R214; DEDUCED, log 19, safe). -/
def resetBlock (s : State) : State :=
  ((s.withName (.reset s.cfg)).withText (.reset s.cfg)).withRecord (.reset s.cfg)

/-! ### Fetching a command -/

/-- What the host's words give a step. -/
inductive Fetched where
  /-- No command is presented; the block waits (R263). -/
  | idle
  /-- A command, and the state that has taken its words. -/
  | command (i : Instr) (s : State)
  /-- The model stops. -/
  | stop (r : Refusal)
  deriving DecidableEq, Repr

/-- The command of the pending words (R85, R210): its words are taken and the earlier response is gone (log 7).
An illegal configuration (R9; DESIGN CHOICE, log 5, safe), an illegal word (R83; DEDUCED, log 10, safe) and a part of an UPDATE (DESIGN CHOICE, log 9, safe) are refused;
no word at all is waiting (DEDUCED, log 8, safe). -/
def fetch (s : State) : Fetched :=
  if s.cfg.legal then
    match decode s.pending with
    | .ok (i, rest) => .command i ((s.withPending rest).withResponse none)
    | .error .noCommand => .idle
    | .error .illegalCommand => .stop .illegalCommand
    | .error .incompleteCommand => .stop .incompleteCommand
  else .stop .illegalConfig

/-- The words that make the next step run the opcode-table word `w`: its own words for a command, for a block-B row
the UPDATE that carries it (log 16). -/
def wordsToRun (nbits w : Nat) : List Word :=
  match decode (tableWords nbits w) with
  | .ok (i, _) => encode i
  | .error _ => if nbits = 16 then encode (.update (tableBlockSet w)) else tableWords nbits w

end Sys2Proof.Machine
end

