-- ==== Sys2Proof/Machine/Command.lean ====
section
/-! DEFINITION. The meanings of the host commands NOP, UPDATE, RESET and READ (44_commands.md). -/

namespace Sys2Proof.Machine

/-- NOP: "State written: none" (R218). -/
def execNop (s : State) : Host.Outcome State Fault Refusal := .next s

/-- UPDATE (R212). -/
def execUpdate (bs : RawBlockSet) (s : State) : Host.Outcome State Fault Refusal := .next (updateBlock bs s)

/-- RESET (R214). -/
def execReset (s : State) : Host.Outcome State Fault Refusal := .next (resetBlock s)

/-- READ (R216). -/
def execRead (addr : BitVec 8) (s : State) : Host.Outcome State Fault Refusal := .next (readRegister addr s)

end Sys2Proof.Machine
end

