-- ==== Sys2Proof/Machine/Common.lean ====
section
/-! DEFINITION. The meaning of the COMMON row: the block A and block B fields of every group. -/

namespace Sys2Proof.Machine

/-- COMMON under the strict verdict (R190, R191, R192; DEDUCED, log 14, safe). -/
def execCommon (bs : RawBlockSet) (s : State) : Host.Outcome State Fault Refusal :=
  .next (unlessSkipped bs (whenStrict bs (commonStep bs)) s)

end Sys2Proof.Machine
end

