-- ==== Sys2Proof/Machine/Group0.lean ====
section
/-! DEFINITION. The meanings of the group 0 rows: the name fragment and the decoder-identification flag. -/

namespace Sys2Proof.Machine

/-- G0_PS_DI: NAME_STEP under the name verdict, then G0_DI under the strict verdict (R140, R180; DEDUCED, log 12 and log 14, safe). -/
def execG0PsDi (bs : RawBlockSet) (s : State) : Host.Outcome State Fault Refusal :=
  .next (unlessSkipped bs (fun t => whenStrict bs (diStep bs) (whenName bs (nameStep bs) t)) s)

/-- G0_DI, the second arm alone (R180; DEDUCED, log 14, safe). -/
def execG0Di (bs : RawBlockSet) (s : State) : Host.Outcome State Fault Refusal :=
  .next (unlessSkipped bs (whenStrict bs (diStep bs)) s)

end Sys2Proof.Machine
end

