-- ==== Sys2Proof/Machine/Group1.lean ====
section
/-! DEFINITION. The meaning of the group 1 row: slow-labelling code and programme item number. -/

namespace Sys2Proof.Machine

/-- G1_SL_PIN under the strict verdict (R182). -/
def execG1SlPin (bs : RawBlockSet) (s : State) : Host.Outcome State Fault Refusal :=
  .next (whenStrict bs (slowLabelStep bs) s)

end Sys2Proof.Machine
end

