-- ==== Sys2Proof/Machine/Group2.lean ====
section
/-! DEFINITION. The meanings of the group 2 rows: station text, version A and version B. -/

namespace Sys2Proof.Machine

/-- G2A_RT: TEXT_STEP with the version-A write, under the strict verdict (R160, R164). -/
def execG2aRt (bs : RawBlockSet) (s : State) : Host.Outcome State Fault Refusal :=
  .next (whenStrict bs (textStep .a bs) s)

/-- G2B_RT: TEXT_STEP with the version-B write, under the strict verdict (R160, R165). -/
def execG2bRt (bs : RawBlockSet) (s : State) : Host.Outcome State Fault Refusal :=
  .next (whenStrict bs (textStep .b bs) s)

end Sys2Proof.Machine
end

