-- ==== Sys2Proof/Machine/Group4.lean ====
section
/-! DEFINITION. The meaning of the group 4 row: clock time. -/

namespace Sys2Proof.Machine

/-- G4_CT under the strict verdict (R185). -/
def execG4Ct (bs : RawBlockSet) (s : State) : Host.Outcome State Fault Refusal :=
  .next (whenStrict bs (clockStep bs) s)

end Sys2Proof.Machine
end

