-- ==== Sys2Proof/Machine/Ignored.lean ====
section
/-! DEFINITION. The meanings of the rows of the group types without an arm, 3 and 5 to 15: "it still runs rules R190 to
R192 when `usable_strict == 1`" (R193; DEDUCED, log 13, safe). -/

namespace Sys2Proof.Machine

/-- G3_IGNORED (R193). -/
def execG3Ignored (bs : RawBlockSet) (s : State) : Host.Outcome State Fault Refusal := .next (ignoredGroup bs s)

/-- G5_IGNORED (R193). -/
def execG5Ignored (bs : RawBlockSet) (s : State) : Host.Outcome State Fault Refusal := .next (ignoredGroup bs s)

/-- G6_IGNORED (R193). -/
def execG6Ignored (bs : RawBlockSet) (s : State) : Host.Outcome State Fault Refusal := .next (ignoredGroup bs s)

/-- G7_IGNORED (R193). -/
def execG7Ignored (bs : RawBlockSet) (s : State) : Host.Outcome State Fault Refusal := .next (ignoredGroup bs s)

/-- G8_IGNORED (R193). -/
def execG8Ignored (bs : RawBlockSet) (s : State) : Host.Outcome State Fault Refusal := .next (ignoredGroup bs s)

/-- G9_IGNORED (R193). -/
def execG9Ignored (bs : RawBlockSet) (s : State) : Host.Outcome State Fault Refusal := .next (ignoredGroup bs s)

/-- G10_IGNORED (R193). -/
def execG10Ignored (bs : RawBlockSet) (s : State) : Host.Outcome State Fault Refusal := .next (ignoredGroup bs s)

/-- G11_IGNORED (R193). -/
def execG11Ignored (bs : RawBlockSet) (s : State) : Host.Outcome State Fault Refusal := .next (ignoredGroup bs s)

/-- G12_IGNORED (R193). -/
def execG12Ignored (bs : RawBlockSet) (s : State) : Host.Outcome State Fault Refusal := .next (ignoredGroup bs s)

/-- G13_IGNORED (R193). -/
def execG13Ignored (bs : RawBlockSet) (s : State) : Host.Outcome State Fault Refusal := .next (ignoredGroup bs s)

/-- G14_IGNORED (R193). -/
def execG14Ignored (bs : RawBlockSet) (s : State) : Host.Outcome State Fault Refusal := .next (ignoredGroup bs s)

/-- G15_IGNORED (R193). -/
def execG15Ignored (bs : RawBlockSet) (s : State) : Host.Outcome State Fault Refusal := .next (ignoredGroup bs s)

end Sys2Proof.Machine
end

