-- ==== Sys2Proof/Machine/Dispatch.lean ====
section
/-! DEFINITION. Dispatch: one arm per instruction, one meaning each. -/

namespace Sys2Proof.Machine

/-- The meaning of an instruction. -/
def exec (i : Instr) (s : State) : Host.Outcome State Fault Refusal :=
  match i with
  | .nop => Sys2Proof.Machine.execNop s
  | .update bs => Sys2Proof.Machine.execUpdate bs s
  | .reset => Sys2Proof.Machine.execReset s
  | .read addr => Sys2Proof.Machine.execRead addr s
  | .g0PsDi bs => Sys2Proof.Machine.execG0PsDi bs s
  | .g0Di bs => Sys2Proof.Machine.execG0Di bs s
  | .g1SlPin bs => Sys2Proof.Machine.execG1SlPin bs s
  | .g2aRt bs => Sys2Proof.Machine.execG2aRt bs s
  | .g2bRt bs => Sys2Proof.Machine.execG2bRt bs s
  | .g4Ct bs => Sys2Proof.Machine.execG4Ct bs s
  | .g3Ignored bs => Sys2Proof.Machine.execG3Ignored bs s
  | .g5Ignored bs => Sys2Proof.Machine.execG5Ignored bs s
  | .g6Ignored bs => Sys2Proof.Machine.execG6Ignored bs s
  | .g7Ignored bs => Sys2Proof.Machine.execG7Ignored bs s
  | .g8Ignored bs => Sys2Proof.Machine.execG8Ignored bs s
  | .g9Ignored bs => Sys2Proof.Machine.execG9Ignored bs s
  | .g10Ignored bs => Sys2Proof.Machine.execG10Ignored bs s
  | .g11Ignored bs => Sys2Proof.Machine.execG11Ignored bs s
  | .g12Ignored bs => Sys2Proof.Machine.execG12Ignored bs s
  | .g13Ignored bs => Sys2Proof.Machine.execG13Ignored bs s
  | .g14Ignored bs => Sys2Proof.Machine.execG14Ignored bs s
  | .g15Ignored bs => Sys2Proof.Machine.execG15Ignored bs s
  | .common bs => Sys2Proof.Machine.execCommon bs s

end Sys2Proof.Machine
end

