-- ==== Sys2Proof/Machine/Step.lean ====
section
/-! DEFINITION. One step of the block: the next command of the host, performed completely (R66, R210). -/

namespace Sys2Proof.Machine

/-- One step: the command the host presents next, or waiting where it presents none (R210, R263). -/
def step (s : State) : Host.Outcome State Fault Refusal :=
  match fetch s with
  | .idle => .next s
  | .command i t => exec i t
  | .stop r => .refused r

/-- `s` with the opcode-table word `w` presented before everything else, so that the next step runs it (log 16). -/
def State.withFetchWord (s : State) (nbits w : Nat) : State := s.withPending (wordsToRun nbits w ++ s.pending)

end Sys2Proof.Machine
end

