-- ==== Sys2Proof/Safety.lean ====
section
/-! DEFINITION. What the claims speak of: the invariants of R26, the reset values of R51, runs of instructions. -/

namespace Sys2Proof.Machine

/-- A byte a name buffer may hold: FILL, or an accepted name character (R146). -/
abbrev NameByte (cfg : Config) (c : Byte) : Prop := c = cfg.fill ∨ charAccepted cfg c = true

/-- Every buffer has the length its parameter gives it (R8, R23, R24, R31). -/
structure State.Sized (s : State) : Prop where
  rxName   : s.name.rxName.length = s.cfg.nameLen
  candName : s.name.candName.length = s.cfg.nameLen
  accName  : s.record.accName.length = s.cfg.nameLen
  rxText   : s.text.rxText.length = s.cfg.textLen
  accText  : s.record.accText.length = s.cfg.textLen

/-- The invariants that hold between commands, under a legal configuration. -/
structure State.Inv (s : State) : Prop where
  /-- The configuration is one a model accepts (R9). -/
  legal         : s.cfg.legal = true
  /-- The buffers have the lengths of R8. -/
  sized         : s.Sized
  /-- `name_cycles < VALIDITY` (R26). -/
  cyclesBelow   : s.name.nameCycles.toNat < s.cfg.validity
  /-- `name_last_off <= 3` (R26). -/
  nameOffBelow  : s.name.nameLastOff.toNat ≤ 3
  /-- `text_last_off <= 15` (R26). -/
  textOffBelow  : s.text.textLastOff.toNat ≤ 15
  /-- If `text_ab_valid == 0` then `text_ab_last == 0` (R26). -/
  abLastValid   : s.text.textAbValid = false → s.text.textAbLast = false
  /-- `hours` is 0 to 23 (R32). -/
  hoursInRange  : s.record.hours.toNat ≤ 23
  /-- `minutes` is 0 to 59 (R32). -/
  minutesInRange : s.record.minutes.toNat ≤ 59
  /-- No byte of `rx_name` outside FILL and the accepted characters (R146). -/
  rxNameBytes   : ∀ i, i < s.cfg.nameLen → NameByte s.cfg (getByte s.name.rxName i)
  /-- The same of `cand_name` (R146). -/
  candNameBytes : ∀ i, i < s.cfg.nameLen → NameByte s.cfg (getByte s.name.candName i)
  /-- The same of `acc_name` (R146). -/
  accNameBytes  : ∀ i, i < s.cfg.nameLen → NameByte s.cfg (getByte s.record.accName i)

/-- Every element of the table of R22 has its reset value (R51, R260). -/
structure State.IsReset (s : State) : Prop where
  rxName      : s.name.rxName = List.replicate s.cfg.nameLen s.cfg.fill
  candName    : s.name.candName = List.replicate s.cfg.nameLen s.cfg.fill
  nameCycles  : s.name.nameCycles = 0#8
  nameLastOff : s.name.nameLastOff = 0#2
  rxText      : s.text.rxText = List.replicate s.cfg.textLen s.cfg.fill
  textLastOff : s.text.textLastOff = 0#4
  textAbLast  : s.text.textAbLast = false
  textAbValid : s.text.textAbValid = false
  accName     : s.record.accName = List.replicate s.cfg.nameLen s.cfg.fill
  accText     : s.record.accText = List.replicate s.cfg.textLen s.cfg.fill
  hours       : s.record.hours = 0#5
  minutes     : s.record.minutes = 0#6
  country     : s.record.country = 0#4
  area        : s.record.area = 0#4
  ref         : s.record.ref = 0#8
  pty         : s.record.pty = 0#5
  version     : s.record.version = .a
  tp          : s.record.tp = false
  ta          : s.record.ta = false
  ms          : s.record.ms = false
  stereo      : s.record.stereo = false
  compressed  : s.record.compressed = false
  dynPty      : s.record.dynPty = false
  emergency   : s.record.emergency = false
  clearScreen : s.record.clearScreen = false
  pinDay      : s.record.pinDay = 0#5
  pinHour     : s.record.pinHour = 0#5
  pinMinute   : s.record.pinMinute = 0#6

/-- Instructions performed one after the other, each on the state the one before left; the first stop ends the run. -/
def execAll : List Instr → State → Host.Outcome State Fault Refusal
  | [], s => .next s
  | i :: is, s =>
    match exec i s with
    | .next t => execAll is t
    | .fault r => .fault r
    | .refused r => .refused r

/-- The rows of the group types without an arm, 3 and 5 to 15, on one block set (R193). -/
def ignoredRows (bs : RawBlockSet) : List Instr :=
  [.g3Ignored bs, .g5Ignored bs, .g6Ignored bs, .g7Ignored bs, .g8Ignored bs, .g9Ignored bs, .g10Ignored bs,
    .g11Ignored bs, .g12Ignored bs, .g13Ignored bs, .g14Ignored bs, .g15Ignored bs]

/-- A name that fragments can carry: NAME_LEN characters, of which those that no segment reaches are FILL (R65). -/
structure CarriableName (cfg : Config) (n : List Byte) : Prop where
  length : n.length = cfg.nameLen
  rest   : ∀ i, 8 ≤ i → i < cfg.nameLen → getByte n i = cfg.fill

/-- A group-0 block set that is usable for the name, whose two characters are accepted and are those of segment
`k mod 4` of the name `n`, and whose segment index is `k mod 4` (R89, R141). -/
structure CarriesName (cfg : Config) (n : List Byte) (k : Nat) (bs : RawBlockSet) : Prop where
  group    : bs.groupType = 0#4
  segment  : bs.seg2.toNat = k % 4
  usable   : usableName cfg bs = true
  accepted : pairAccepted cfg bs.d = true
  first    : hiByte bs.d = getByte n (2 * (k % 4))
  second   : loByte bs.d = getByte n (2 * (k % 4) + 1)

/-- A strictly usable group-2 block set of version `ver` with text segment index `k` (R91). -/
structure CarriesText (cfg : Config) (ver : Version) (k : Nat) (bs : RawBlockSet) : Prop where
  group   : bs.groupType = 2#4
  version : bs.version = ver
  segment : bs.seg4.toNat = k
  usable  : usableStrict cfg bs = true

end Sys2Proof.Machine
end

