-- ==== Sys2Proof/Certificates/Slice0/Obligations.lean ====
section
/-! DEFINITION. The statements for the provers, from the numbered rules of spec/. -/

open Sys2Proof Sys2Proof.Machine

/-! ### Reset -/

/-- R260, R214: after power-up and after a RESET command every element of R22 has its reset value; RESET is accepted in
every state, is idempotent and changes no parameter. -/
def Obligations.ResetGivesTheResetState : Prop :=
  (∀ cfg : Config, (State.powerUp cfg).IsReset ∧ (State.powerUp cfg).cfg = cfg) ∧
  (State.reset.IsReset ∧ State.reset.cfg.fill = 0x20#8) ∧
  encode .reset = [0x2000#16] ∧
  ∀ s : State, ∃ t : State, exec .reset s = .next t ∧ t.IsReset ∧ t.cfg = s.cfg ∧ exec .reset t = .next t

/-- R262: "No fragment received before a RESET influences any state after it": two states with the same parameters, and
the same words pending and response, go to one state. -/
def Obligations.NothingBeforeResetSurvives : Prop :=
  ∀ s s' : State, s.cfg = s'.cfg → s.pending = s'.pending → s.response = s'.response →
    ∃ t : State, exec .reset s = .next t ∧ exec .reset s' = .next t

/-! ### NOP and READ -/

/-- R218: NOP is the word 0x0000 and leaves the state unchanged in any state. -/
def Obligations.NopLeavesTheStateUnchanged : Prop :=
  encode .nop = [0x0000#16] ∧ ∀ s : State, exec .nop s = .next s

/-- R41 to R43, R45 to R49: what READ answers at each address, bit field by bit field, and that a read of any address
but 0x03 has no side effect. -/
def Obligations.ReadAnswersTheRegisterMap : Prop :=
  ∀ (s : State) (addr : BitVec 8), ∃ (t : State) (v : Word),
    exec (.read addr) s = .next t ∧ t.response = some v ∧
    (addr ≠ 0x03#8 → t = { s with response := some v }) ∧
    (addr = 0x00#8 → v.extractLsb' 12 4 = s.record.country ∧ v.extractLsb' 8 4 = s.record.area ∧
      v.extractLsb' 0 8 = s.record.ref) ∧
    (addr = 0x01#8 → v.extractLsb' 9 7 = 0#7 ∧ (v.getLsbD 8 = true ↔ s.record.version = .b) ∧
      v.extractLsb' 5 3 = 0#3 ∧ v.extractLsb' 0 5 = s.record.pty) ∧
    (addr = 0x02#8 → v.extractLsb' 7 9 = 0#9 ∧ v.getLsbD 6 = s.record.emergency ∧ v.getLsbD 5 = s.record.dynPty ∧
      v.getLsbD 4 = s.record.compressed ∧ v.getLsbD 3 = s.record.stereo ∧ v.getLsbD 2 = s.record.ms ∧
      v.getLsbD 1 = s.record.ta ∧ v.getLsbD 0 = s.record.tp) ∧
    (addr = 0x03#8 → v.extractLsb' 1 15 = 0#15 ∧ v.getLsbD 0 = s.record.clearScreen) ∧
    (addr = 0x04#8 → v.extractLsb' 13 3 = 0#3 ∧ v.extractLsb' 8 5 = s.record.hours ∧ v.extractLsb' 6 2 = 0#2 ∧
      v.extractLsb' 0 6 = s.record.minutes) ∧
    (addr = 0x05#8 → v.extractLsb' 11 5 = s.record.pinDay ∧ v.extractLsb' 6 5 = s.record.pinHour ∧
      v.extractLsb' 0 6 = s.record.pinMinute) ∧
    (∀ k : Nat, k ≤ 3 → addr.toNat = 0x10 + k →
      v.extractLsb' 8 8 = getByte s.record.accName (2 * k) ∧ v.extractLsb' 0 8 = getByte s.record.accName (2 * k + 1)) ∧
    (∀ k : Nat, k ≤ 31 → addr.toNat = 0x40 + k →
      v.extractLsb' 8 8 = getByte s.record.accText (2 * k) ∧ v.extractLsb' 0 8 = getByte s.record.accText (2 * k + 1)) ∧
    ((0x06 ≤ addr.toNat ∧ addr.toNat ≤ 0x0F) ∨ (0x14 ≤ addr.toNat ∧ addr.toNat ≤ 0x3F) ∨ 0x60 ≤ addr.toNat →
      v = 0#16)

/-- R216: READ changes `clear_screen` at address 0x03 and nothing else of the block, and answers RegRead(addr), the
value before the side effect. Its word is 0x3000 | addr. -/
def Obligations.ReadChangesOnlyClearScreen : Prop :=
  ∀ (s : State) (addr : BitVec 8),
    encode (.read addr) = [0x3000#16 ||| addr.setWidth 16] ∧
    exec (.read addr) s = .next
      { s with
        response := some (regRead s.record addr)
        record := { s.record with clearScreen := if addr = 0x03#8 then false else s.record.clearScreen } }

/-- R44, R67: a read of CLRSCR is a read-and-clear, so a second one answers 0; a read of any other address leaves
`clear_screen` and is idempotent. -/
def Obligations.ClearScreenIsConsumedByItsRead : Prop :=
  (∀ s : State, ∃ t u : State,
    exec (.read 0x03#8) s = .next t ∧ t.response = some (if s.record.clearScreen then 1#16 else 0#16) ∧
    t.record.clearScreen = false ∧ exec (.read 0x03#8) t = .next u ∧ u.response = some 0#16) ∧
  (∀ (s : State) (addr : BitVec 8), addr ≠ 0x03#8 →
    ∃ t : State, exec (.read addr) s = .next t ∧ t.record = s.record ∧ exec (.read addr) t = .next t)

/-- R25: what a READ answers and leaves of the Record does not depend on the working buffers, the candidate or the
counters. -/
def Obligations.WorkingStateIsNotReadable : Prop :=
  ∀ (s s' : State) (addr : BitVec 8), s.record = s'.record →
    ∃ t t' : State, exec (.read addr) s = .next t ∧ exec (.read addr) s' = .next t' ∧ t.response = t'.response ∧
      t.record = t'.record ∧ t.name = s.name ∧ t'.name = s'.name ∧ t.text = s.text ∧ t'.text = s'.text

/-! ### The quality gate -/

/-- R124, R125: both verdicts from the sync flag and the error counts of any STATUS_DECODE, the strict one implying the
other whenever STRICT_ERR_MAX <= NAME_ERR_MAX; and, by R86, which bits of S0 and S1 these are under the default one,
whatever ERR_W is. -/
def Obligations.GateVerdictsFromTheStatusWords : Prop :=
  (∀ (cfg : Config) (bs : RawBlockSet),
    (usableName cfg bs = true ↔ syncOf cfg bs = true ∧ errAbOf cfg bs + errCdOf cfg bs ≤ cfg.nameErrMax) ∧
    (usableStrict cfg bs = true ↔ syncOf cfg bs = true ∧ errAbOf cfg bs + errCdOf cfg bs ≤ cfg.strictErrMax) ∧
    (cfg.strictErrMax ≤ cfg.nameErrMax → usableStrict cfg bs = true → usableName cfg bs = true)) ∧
  (∀ (cfg : Config) (bs : RawBlockSet), cfg.statusDecode = .rda5807m →
    syncOf cfg bs = bs.s0.getLsbD 12 ∧ errAbOf cfg bs = (bs.s1.extractLsb' 2 2).toNat ∧
    errCdOf cfg bs = (bs.s1.extractLsb' 0 2).toNat)

/-- R86, R126: in a legal configuration each error count is below 2^ERR_W, for every STATUS_DECODE; and their sum does
not wrap. That a STATUS_DECODE which breaks R86 is refused is the model's (log 3). -/
def Obligations.ErrorCountsAreBounded : Prop :=
  ∀ (cfg : Config) (bs : RawBlockSet), cfg.legal = true → errAbOf cfg bs < 2 ^ cfg.errW ∧
    errCdOf cfg bs < 2 ^ cfg.errW ∧ esum cfg bs = errAbOf cfg bs + errCdOf cfg bs ∧ esum cfg bs ≤ 2 * (2 ^ cfg.errW - 1)

/-- R128: a block set with sync 0 changes no state at all, whatever the group and the error counts: neither by UPDATE
nor by a block-B row. -/
def Obligations.BlockSetWithoutSyncChangesNothing : Prop :=
  ∀ (s : State) (i : Instr) (bs : RawBlockSet), i = .update bs ∨ i.armSet = some bs → syncOf s.cfg bs = false →
    exec i s = .next s

/-- R127, R129: a block set that fails the strict verdict leaves every block-B row but G0_PS_DI without effect, and
one that fails both verdicts leaves UPDATE and all rows without effect. -/
def Obligations.UnusableBlockSetsLeaveNoTrace : Prop :=
  ∀ (s : State) (i : Instr) (bs : RawBlockSet), i.armSet = some bs → usableStrict s.cfg bs = false →
    (i ≠ .g0PsDi bs → exec i s = .next s) ∧
    (usableName s.cfg bs = false → exec i s = .next s ∧ exec (.update bs) s = .next s)

/-- R127: a group-0 block set that fails the name verdict leaves of the row G0_PS_DI only G0_DI. -/
def Obligations.NameStepNeedsTheNameVerdict : Prop :=
  ∀ (s : State) (bs : RawBlockSet), usableName s.cfg bs = false →
    ∃ t : State, exec (.g0PsDi bs) s = .next t ∧ exec (.g0Di bs) s = .next t ∧ t.name = s.name ∧
      t.record.accName = s.record.accName

/-- R213 (b): with the name verdict alone an UPDATE of another group changes nothing, and one of group 0 changes the
name elements and `acc_name` alone. -/
def Obligations.NameVerdictAloneReachesOnlyTheName : Prop :=
  ∀ (s : State) (bs : RawBlockSet), usableName s.cfg bs = true → usableStrict s.cfg bs = false →
    (bs.b.extractLsb' 12 4 ≠ 0#4 → exec (.update bs) s = .next s) ∧
    (bs.b.extractLsb' 12 4 = 0#4 → ∃ (n : NameAcc) (acc : List Byte),
      exec (.update bs) s = .next { s with name := n, record := { s.record with accName := acc } })

/-! ### Group 0 -/

/-- R141: a group-0 pair with a character outside NAME_CHAR_MIN to NAME_CHAR_MAX changes no name element; with
PRINTABLE_FAIL_SKIPS_ALL the whole UPDATE changes nothing where the name verdict holds; without it G0_DI and COMMON still run. -/
def Obligations.RejectedNamePairChangesNoName : Prop :=
  ∀ (s : State) (bs : RawBlockSet), bs.b.extractLsb' 12 4 = 0#4 →
    ((bs.d.extractLsb' 8 8).toNat < s.cfg.nameCharMin ∨ s.cfg.nameCharMax < (bs.d.extractLsb' 8 8).toNat ∨
      (bs.d.extractLsb' 0 8).toNat < s.cfg.nameCharMin ∨ s.cfg.nameCharMax < (bs.d.extractLsb' 0 8).toNat) →
    (∃ t : State, exec (.update bs) s = .next t ∧ t.name = s.name ∧ t.text = s.text ∧
      t.record.accName = s.record.accName) ∧
    (s.cfg.printableFailSkipsAll = true → usableName s.cfg bs = true → exec (.update bs) s = .next s) ∧
    (s.cfg.printableFailSkipsAll = false →
      exec (.update bs) s = execAll [.g0Di bs, .common bs] s ∧ exec (.g0PsDi bs) s = exec (.g0Di bs) s)

/-- R142 to R145: an accepted fragment is written at `2 * off`, high byte first, and `name_last_off` takes its index. It
is a wrap exactly when the index is below `name_last_off`, and a wrap is judged on `rx_name` as it was before the
fragment: a changed sweep becomes the candidate, an equal one counts, and the VALIDITY-th promotes. The rest of the row
is G0_DI on the state after that. (State.Sized, the buffers' lengths, is a part of the invariant that every step keeps.) -/
def Obligations.NameFragmentIsValidatedAndWritten : Prop :=
  ∀ (s : State) (bs : RawBlockSet), s.cfg.legal = true → s.Sized → usableName s.cfg bs = true →
    s.cfg.nameCharMin ≤ (bs.d.extractLsb' 8 8).toNat → (bs.d.extractLsb' 8 8).toNat ≤ s.cfg.nameCharMax →
    s.cfg.nameCharMin ≤ (bs.d.extractLsb' 0 8).toNat → (bs.d.extractLsb' 0 8).toNat ≤ s.cfg.nameCharMax →
    ∃ (rx cand acc : List Byte) (k : BitVec 8) (t : State),
      rx.length = s.cfg.nameLen ∧
      (∀ i, i < s.cfg.nameLen → getByte rx i =
        if i = 2 * (bs.b.extractLsb' 0 2).toNat then bs.d.extractLsb' 8 8
        else if i = 2 * (bs.b.extractLsb' 0 2).toNat + 1 then bs.d.extractLsb' 0 8
        else getByte s.name.rxName i) ∧
      (s.name.nameLastOff.toNat ≤ (bs.b.extractLsb' 0 2).toNat →
        cand = s.name.candName ∧ k = s.name.nameCycles ∧ acc = s.record.accName) ∧
      ((bs.b.extractLsb' 0 2).toNat < s.name.nameLastOff.toNat → s.name.rxName ≠ s.name.candName →
        cand = s.name.rxName ∧ k = 0#8 ∧ acc = s.record.accName) ∧
      ((bs.b.extractLsb' 0 2).toNat < s.name.nameLastOff.toNat → s.name.rxName = s.name.candName →
        s.name.nameCycles.toNat + 1 < s.cfg.validity →
        cand = s.name.candName ∧ k.toNat = s.name.nameCycles.toNat + 1 ∧ acc = s.record.accName) ∧
      ((bs.b.extractLsb' 0 2).toNat < s.name.nameLastOff.toNat → s.name.rxName = s.name.candName →
        s.cfg.validity ≤ s.name.nameCycles.toNat + 1 →
        cand = s.name.candName ∧ k = 0#8 ∧ acc = s.name.rxName) ∧
      exec (.g0PsDi bs) s = .next t ∧
      exec (.g0Di bs)
        { s with
          name := { rxName := rx, candName := cand, nameCycles := k, nameLastOff := bs.b.extractLsb' 0 2 }
          record := { s.record with accName := acc } } = .next t

/-- R180, R181: a strictly usable group 0 writes exactly one DI flag or none, keyed by the segment index. -/
def Obligations.DiFlagFollowsTheSegmentIndex : Prop :=
  ∀ (s : State) (bs : RawBlockSet), usableStrict s.cfg bs = true → tickSkipped s.cfg bs = false →
    ((bs.b.extractLsb' 0 2).toNat = 0 →
      exec (.g0Di bs) s = .next { s with record := { s.record with dynPty := bs.b.getLsbD 2 } }) ∧
    ((bs.b.extractLsb' 0 2).toNat = 1 →
      exec (.g0Di bs) s = .next { s with record := { s.record with compressed := bs.b.getLsbD 2 } }) ∧
    ((bs.b.extractLsb' 0 2).toNat = 2 → exec (.g0Di bs) s = .next s) ∧
    ((bs.b.extractLsb' 0 2).toNat = 3 →
      exec (.g0Di bs) s = .next { s with record := { s.record with stereo := bs.b.getLsbD 2 } })

/-! ### Groups 1, 2 and 4 -/

/-- R182 to R184: a strictly usable group 1 sets `emergency` exactly when C[14:12] is EMERGENCY_CODE and stores the
programme item number raw; nothing else changes. -/
def Obligations.SlowLabelSetsEmergencyAndPin : Prop :=
  ∀ (s : State) (bs : RawBlockSet), usableStrict s.cfg bs = true →
    ∃ (e : Bool) (day hour : BitVec 5) (minute : BitVec 6),
      (e = true ↔ bs.c.toNat / 4096 % 8 = s.cfg.emergencyCode.toNat) ∧ day.toNat = bs.d.toNat / 2048 ∧
      hour.toNat = bs.d.toNat / 64 % 32 ∧ minute.toNat = bs.d.toNat % 64 ∧
      exec (.g1SlPin bs) s = .next { s with record :=
        { s.record with emergency := e, pinDay := day, pinHour := hour, pinMinute := minute } }

/-- R185, R186: a strictly usable group 4 stores hour C[0] :: D[15:12] and minute D[11:6] when they are at most 23 and 59,
and otherwise writes neither field; nothing else changes. -/
def Obligations.ClockTimeIsStoredInRange : Prop :=
  ∀ (s : State) (bs : RawBlockSet), usableStrict s.cfg bs = true →
    (bs.c.toNat % 2 * 16 + bs.d.toNat / 4096 ≤ 23 → bs.d.toNat / 64 % 64 ≤ 59 →
      ∃ (h : BitVec 5) (m : BitVec 6), h.toNat = bs.c.toNat % 2 * 16 + bs.d.toNat / 4096 ∧
        m.toNat = bs.d.toNat / 64 % 64 ∧
        exec (.g4Ct bs) s = .next { s with record := { s.record with hours := h, minutes := m } }) ∧
    (23 < bs.c.toNat % 2 * 16 + bs.d.toNat / 4096 ∨ 59 < bs.d.toNat / 64 % 64 → exec (.g4Ct bs) s = .next s)

/-- R160, R162 to R167: the whole effect of a strictly usable group 2, in version A and in version B; version B writes no
position from 32 on (R169). (State.Sized is a part of the invariant that every step keeps.) -/
def Obligations.TextFragmentOfEachVersion : Prop :=
  ∀ (s : State) (bs : RawBlockSet), s.cfg.legal = true → s.Sized → usableStrict s.cfg bs = true →
    (∃ rx : List Byte, rx.length = s.cfg.textLen ∧
      (∀ i, i < s.cfg.textLen → getByte rx i =
        if i = 4 * (bs.b.extractLsb' 0 4).toNat then bs.c.extractLsb' 8 8
        else if i = 4 * (bs.b.extractLsb' 0 4).toNat + 1 then bs.c.extractLsb' 0 8
        else if i = 4 * (bs.b.extractLsb' 0 4).toNat + 2 then bs.d.extractLsb' 8 8
        else if i = 4 * (bs.b.extractLsb' 0 4).toNat + 3 then bs.d.extractLsb' 0 8
        else getByte s.text.rxText i) ∧
      exec (.g2aRt bs) s = .next
        { s with
          text := { rxText := rx, textLastOff := bs.b.extractLsb' 0 4, textAbLast := bs.b.getLsbD 4,
                    textAbValid := true }
          record := { s.record with
            accText := if (bs.b.extractLsb' 0 4).toNat < s.text.textLastOff.toNat then s.text.rxText
                       else s.record.accText
            clearScreen := if s.text.textAbValid = true ∧ bs.b.getLsbD 4 ≠ s.text.textAbLast then true
                           else s.record.clearScreen } }) ∧
    (∃ rx : List Byte, rx.length = s.cfg.textLen ∧
      (∀ i, i < s.cfg.textLen → getByte rx i =
        if i = 2 * (bs.b.extractLsb' 0 4).toNat then bs.d.extractLsb' 8 8
        else if i = 2 * (bs.b.extractLsb' 0 4).toNat + 1 then bs.d.extractLsb' 0 8
        else getByte s.text.rxText i) ∧
      (∀ i, 32 ≤ i → i < s.cfg.textLen → getByte rx i = getByte s.text.rxText i) ∧
      exec (.g2bRt bs) s = .next
        { s with
          text := { rxText := rx, textLastOff := bs.b.extractLsb' 0 4, textAbLast := bs.b.getLsbD 4,
                    textAbValid := true }
          record := { s.record with
            accText := if (bs.b.extractLsb' 0 4).toNat < s.text.textLastOff.toNat then s.text.rxText
                       else s.record.accText
            clearScreen := if s.text.textAbValid = true ∧ bs.b.getLsbD 4 ≠ s.text.textAbLast then true
                           else s.record.clearScreen } })

/-! ### The fields of every group -/

/-- R190, R191, R192: what COMMON writes under the strict verdict; with TA_MS_ALL_GROUPS false TA and M/S follow
group 0 alone; nothing else changes. -/
def Obligations.CommonFieldsFollowBlocksAAndB : Prop :=
  ∀ (s : State) (bs : RawBlockSet), usableStrict s.cfg bs = true → tickSkipped s.cfg bs = false →
    ∃ (country area : BitVec 4) (ref : BitVec 8) (pty : BitVec 5) (ver : Version) (ta ms : Bool),
      country.toNat = bs.a.toNat / 4096 ∧ area.toNat = bs.a.toNat / 256 % 16 ∧ ref.toNat = bs.a.toNat % 256 ∧
      pty.toNat = bs.b.toNat / 32 % 32 ∧ (ver = .b ↔ bs.b.getLsbD 11 = true) ∧
      (s.cfg.taMsAllGroups = true ∨ bs.b.extractLsb' 12 4 = 0#4 → ta = bs.b.getLsbD 4 ∧ ms = bs.b.getLsbD 3) ∧
      (s.cfg.taMsAllGroups = false → bs.b.extractLsb' 12 4 ≠ 0#4 → ta = s.record.ta ∧ ms = s.record.ms) ∧
      exec (.common bs) s = .next { s with record :=
        { s.record with
          country := country
          area := area
          ref := ref
          pty := pty
          tp := bs.b.getLsbD 10
          version := ver
          ta := ta
          ms := ms } }

/-- R193: a block set of group type 3 or 5 to 15 runs no group arm: the whole UPDATE does what COMMON does under the strict
verdict, and nothing without it. That the ignored row, run alone, does the same is the model's choice of the row's
meaning (log 13): R95 gives that row no group arm. -/
def Obligations.IgnoredGroupsRunOnlyTheCommonFields : Prop :=
  ∀ (s : State) (bs : RawBlockSet) (i : Instr), i ∈ ignoredRows bs → i.wf = true →
    groupRow bs = i ∧
    (∃ t : State, exec i s = .next t ∧ exec (.common bs) s = .next t ∧ exec (.update bs) s = .next t ∧
      t.name = s.name ∧ t.text = s.text) ∧
    (usableStrict s.cfg bs = false → exec i s = .next s)

/-! ### UPDATE -/

/-- R95, R212: an UPDATE performs exactly the block-B rows its block set fits, one after the other, each by its own
meaning, and answers a next state. That a row is an instruction of its own is the model's choice (log 11), and so is what
the rows of group 0, the ignored rows and COMMON do when run alone (log 12, log 13, log 14). -/
def Obligations.UpdateRunsTheRowsOfItsBlockSet : Prop :=
  ∀ (s : State) (bs : RawBlockSet),
    exec (.update bs) s = execAll (rowsOf bs) s ∧ ∃ t : State, exec (.update bs) s = .next t

/-- R213 (e): the order among the arms of one block set does not change the result. -/
def Obligations.ArmOrderDoesNotMatter : Prop :=
  ∀ (s : State) (bs : RawBlockSet) (i j : Instr), i ∈ rowsOf bs → j ∈ rowsOf bs →
    execAll [i, j] s = execAll [j, i] s

/-- R130: an UPDATE that repeats the previous block set word for word changes nothing more. -/
def Obligations.RepeatedUpdateChangesNothing : Prop :=
  ∀ (s t : State) (bs : RawBlockSet), exec (.update bs) s = .next t → exec (.update bs) t = .next t

/-- R213 (f): an UPDATE never clears `clear_screen`. -/
def Obligations.UpdateNeverClearsClearScreen : Prop :=
  ∀ (s : State) (bs : RawBlockSet), ∃ t : State, exec (.update bs) s = .next t ∧
    (s.record.clearScreen = true → t.record.clearScreen = true)

/-! ### Rules of the whole machine -/

/-- R211: every instruction is accepted in every state. -/
def Obligations.EveryInstructionCompletes : Prop :=
  ∀ (i : Instr) (s : State), ∃ t : State, exec i s = .next t

/-- R9 and the model's own fields: no instruction changes a parameter or the words pending (log 1, log 6), and none but
READ the response (log 7, log 19). -/
def Obligations.InstructionsKeepParametersAndPendingWords : Prop :=
  ∀ (i : Instr) (s t : State), exec i s = .next t → t.cfg = s.cfg ∧ t.pending = s.pending ∧
    ((∀ addr : BitVec 8, i ≠ .read addr) → t.response = s.response)

/-- R31: whatever instruction changes `acc_name`, it is RESET, or a usable, accepted group-0 fragment that wraps with
`rx_name == cand_name` for the VALIDITY-th time; whatever changes `acc_text`, it is RESET, or a strictly usable group-2
fragment that wraps. Either way the new value is the completed sweep. -/
def Obligations.AcceptedBuffersOnlyByPromotion : Prop :=
  ∀ (i : Instr) (s t : State), exec i s = .next t →
    (t.record.accName ≠ s.record.accName → i = .reset ∨
      ∃ bs : RawBlockSet, ((i = .update bs ∧ bs.groupType = 0#4) ∨ i = .g0PsDi bs) ∧ usableName s.cfg bs = true ∧
        pairAccepted s.cfg bs.d = true ∧ bs.seg2.toNat < s.name.nameLastOff.toNat ∧
        s.name.rxName = s.name.candName ∧ s.cfg.validity ≤ s.name.nameCycles.toNat + 1 ∧
        t.record.accName = s.name.rxName) ∧
    (t.record.accText ≠ s.record.accText → i = .reset ∨
      ∃ bs : RawBlockSet, ((i = .update bs ∧ bs.groupType = 2#4) ∨ i = .g2aRt bs ∨ i = .g2bRt bs) ∧
        usableStrict s.cfg bs = true ∧ bs.seg4.toNat < s.text.textLastOff.toNat ∧ t.record.accText = s.text.rxText)

/-- R38: `clear_screen` is set only by a toggled text A/B flag, and cleared only by a READ of CLRSCR or by RESET. -/
def Obligations.ClearScreenWriters : Prop :=
  ∀ (i : Instr) (s t : State), exec i s = .next t →
    (s.record.clearScreen = false → t.record.clearScreen = true →
      ∃ bs : RawBlockSet, ((i = .update bs ∧ bs.groupType = 2#4) ∨ i = .g2aRt bs ∨ i = .g2bRt bs) ∧
        usableStrict s.cfg bs = true ∧ s.text.textAbValid = true ∧ bs.b.getLsbD 4 ≠ s.text.textAbLast) ∧
    (s.record.clearScreen = true → t.record.clearScreen = false → i = .read 0x03#8 ∨ i = .reset)

/-- The column "writer rules" of the table of R22, for every instruction but RESET: which one can change each group of
elements, and under which verdict. -/
def Obligations.ElementsChangeOnlyByTheirWriters : Prop :=
  ∀ (i : Instr) (s t : State), exec i s = .next t → i ≠ .reset →
    (t.name ≠ s.name → ∃ bs : RawBlockSet, ((i = .update bs ∧ bs.groupType = 0#4) ∨ i = .g0PsDi bs) ∧
      usableName s.cfg bs = true ∧ pairAccepted s.cfg bs.d = true) ∧
    (t.text ≠ s.text → ∃ bs : RawBlockSet,
      ((i = .update bs ∧ bs.groupType = 2#4) ∨ i = .g2aRt bs ∨ i = .g2bRt bs) ∧ usableStrict s.cfg bs = true) ∧
    ((t.record.hours ≠ s.record.hours ∨ t.record.minutes ≠ s.record.minutes) → ∃ bs : RawBlockSet,
      ((i = .update bs ∧ bs.groupType = 4#4) ∨ i = .g4Ct bs) ∧ usableStrict s.cfg bs = true ∧ timeInRange bs = true) ∧
    ((t.record.emergency ≠ s.record.emergency ∨ t.record.pinDay ≠ s.record.pinDay ∨
        t.record.pinHour ≠ s.record.pinHour ∨ t.record.pinMinute ≠ s.record.pinMinute) → ∃ bs : RawBlockSet,
      ((i = .update bs ∧ bs.groupType = 1#4) ∨ i = .g1SlPin bs) ∧ usableStrict s.cfg bs = true) ∧
    ((t.record.dynPty ≠ s.record.dynPty ∨ t.record.compressed ≠ s.record.compressed ∨
        t.record.stereo ≠ s.record.stereo) → ∃ bs : RawBlockSet,
      ((i = .update bs ∧ bs.groupType = 0#4) ∨ i = .g0PsDi bs ∨ i = .g0Di bs) ∧ usableStrict s.cfg bs = true) ∧
    ((t.record.country ≠ s.record.country ∨ t.record.area ≠ s.record.area ∨ t.record.ref ≠ s.record.ref ∨
        t.record.pty ≠ s.record.pty ∨ t.record.version ≠ s.record.version ∨ t.record.tp ≠ s.record.tp ∨
        t.record.ta ≠ s.record.ta ∨ t.record.ms ≠ s.record.ms) → ∃ bs : RawBlockSet,
      (i = .update bs ∨ i = .common bs ∨ i ∈ ignoredRows bs) ∧ usableStrict s.cfg bs = true)

/-! ### The step -/

/-- R26, and with it the ranges of R32 and R146: every step keeps the invariants. -/
def Obligations.StepKeepsTheInvariants : Prop :=
  ∀ s t : State, s.Inv → step s = .next t → t.Inv

/-- R51, R26: the reset state of every legal configuration, the default among them, meets the invariants. -/
def Obligations.ResetMeetsTheInvariants : Prop :=
  State.reset.Inv ∧ ∀ cfg : Config, cfg.legal = true → (State.powerUp cfg).Inv

/-- R210: when the words pending begin with a command that decodes to `i`, the step is the meaning of `i` on the state
that has taken the command's words and holds no response yet (the last two are the model's, log 6 and log 7). -/
def Obligations.StepRunsTheDecodedCommand : Prop :=
  ∀ (s : State) (i : Instr) (rest : List Word), s.cfg.legal = true → decode s.pending = .ok (i, rest) →
    step s = exec i { s with pending := rest, response := none }

/-- R85, R210, R66: when the words pending are the encoding of a command and more, one step performs the whole command
and leaves the rest, and answers a next state. -/
def Obligations.StepPerformsOneWholeCommand : Prop :=
  ∀ (s : State) (i : Instr) (rest : List Word), s.cfg.legal = true → i.isCommand = true →
    s.pending = encode i ++ rest →
    ∃ t : State, step s = .next t ∧ exec i { s with pending := rest, response := none } = .next t ∧
      t.pending = rest ∧ (t.response ≠ none ↔ ∃ addr : BitVec 8, i = .read addr)

/-- The model's choices for a step without a whole command: it waits when no word is pending (log 8) and stops when only
a part of an UPDATE is (log 9). -/
def Obligations.StepWithoutAWholeCommand : Prop :=
  ∀ s : State, s.cfg.legal = true →
    (s.pending = [] → step s = .next s) ∧
    (∀ ws : List Word, s.pending = 0x1000#16 :: ws → ws.length < 6 → step s = .refused .incompleteCommand)

/-- R9, R240: a step keeps the parameters, never faults, and with a configuration that R9 calls illegal does nothing but
refuse (that the step is what refuses is the model's choice, log 5). -/
def Obligations.StepKeepsParametersAndNeverFaults : Prop :=
  ∀ s : State, (∀ r : Fault, step s ≠ .fault r) ∧ (∀ t : State, step s = .next t → t.cfg = s.cfg) ∧
    (s.cfg.validity = 0 ∨ s.cfg.nameCharMax < s.cfg.nameCharMin ∨ s.cfg.errW = 0 →
      step s = .refused .illegalConfig)

/-- R83: exactly the words with `op` above 3, with `rsv` not 0, or with `addr` not 0 outside READ are refused as
illegal, by the decoder and by the step. -/
def Obligations.IllegalCommandWordsAreRefused : Prop :=
  ∀ (s : State) (w : Word) (rest : List Word), s.cfg.legal = true → s.pending = w :: rest →
    ((3 < w.toNat / 4096 ∨ w.toNat / 256 % 16 ≠ 0 ∨ (w.toNat / 4096 ≠ 3 ∧ w.toNat % 256 ≠ 0)) ↔
      decode (w :: rest) = .error .illegalCommand) ∧
    (decode (w :: rest) = .error .illegalCommand ↔ step s = .refused .illegalCommand)

/-! ### Encoding -/

/-- R82, R84, R85: decoding the words of a command, with any words after them, gives the command back and leaves the
words after it. -/
def Obligations.DecodeOfEncodeIsTheCommand : Prop :=
  ∀ (i : Instr) (rest : List Word), i.isCommand = true → decode (encode i ++ rest) = .ok (i, rest)

/-- R85: what decodes to a command is exactly that command's words, seven for an UPDATE and one for every other. -/
def Obligations.DecodedWordsAreTheEncoding : Prop :=
  ∀ (ws rest : List Word) (i : Instr), decode ws = .ok (i, rest) →
    i.isCommand = true ∧ ws = encode i ++ rest ∧
    ((∃ bs : RawBlockSet, i = .update bs ∧ (encode i).length = 7) ∨
      ((∀ bs : RawBlockSet, i ≠ .update bs) ∧ (encode i).length = 1))

/-- R95, R96: a well-formed block-B row is among the rows of its own encoded block set, and every row of a block set is
well formed and carries it; so no block set is illegal and no row is misplaced. -/
def Obligations.RowsOfEncodeHoldTheRow : Prop :=
  (∀ (i : Instr) (bs : RawBlockSet), i.armSet = some bs → i.wf = true →
    decodeBlockSet (encode i) = some (bs, []) ∧ i ∈ rowsOf bs) ∧
  (∀ (i : Instr) (bs : RawBlockSet), i ∈ rowsOf bs → i.wf = true ∧ i.armSet = some bs ∧ encode i = encode (.common bs))

/-- R97, R95: words written out from the spec's encodings decode to the instructions they stand for. -/
def Obligations.WrittenOutWordsDecode : Prop :=
  decode [0x0000#16] = .ok (.nop, []) ∧ decode [0x2000#16] = .ok (.reset, []) ∧
  decode [0x305F#16] = .ok (.read 0x5F#8, []) ∧
  decode [0x1000#16, 0x8201#16, 0x0003#16, 0x0000#16, 0x4F21#16, 0x1000#16, 0x0000#16, 0x3003#16] =
    .ok (.update { a := 0x8201#16, b := 0x0003#16, c := 0x0000#16, d := 0x4F21#16, s0 := 0x1000#16, s1 := 0x0000#16 },
      [0x3003#16]) ∧
  (∀ a c d s0 s1 : Word,
    groupRow { a := a, b := 0x2413#16, c := c, d := d, s0 := s0, s1 := s1 } =
      .g2aRt { a := a, b := 0x2413#16, c := c, d := d, s0 := s0, s1 := s1 } ∧
    groupRow { a := a, b := 0x2C1F#16, c := c, d := d, s0 := s0, s1 := s1 } =
      .g2bRt { a := a, b := 0x2C1F#16, c := c, d := d, s0 := s0, s1 := s1 } ∧
    groupRow { a := a, b := 0xF800#16, c := c, d := d, s0 := s0, s1 := s1 } =
      .g15Ignored { a := a, b := 0xF800#16, c := c, d := d, s0 := s0, s1 := s1 })

/-! ### Whole sweeps -/

/-- R147 for every legal VALIDITY and every name: from reset, accepted fragments of one name in the order 0, 1, 2, 3, 0, …
leave `acc_name` FILL through VALIDITY + 1 complete sweeps, and the next fragment promotes the name. -/
def Obligations.NameIsAcceptedAfterValiditySweeps : Prop :=
  ∀ (cfg : Config) (n : List Byte) (f : Nat → RawBlockSet), cfg.legal = true → CarriableName cfg n →
    charAccepted cfg cfg.fill = false → (∀ k, k ≤ 4 * (cfg.validity + 1) → CarriesName cfg n k (f k)) →
    ∃ t u : State,
      execAll ((List.range (4 * (cfg.validity + 1))).map fun k => .update (f k)) (State.powerUp cfg) = .next t ∧
      t.record.accName = List.replicate cfg.nameLen cfg.fill ∧
      exec (.update (f (4 * (cfg.validity + 1)))) t = .next u ∧ u.record.accName = n ∧ u.name.nameCycles = 0#8

/-- R163, R164: from every state of a legal configuration, sixteen strictly usable version-A fragments in order and then any group-2 fragment
that wraps put their 64 characters into `acc_text`. -/
def Obligations.TextSweepVersionAIsAccepted : Prop :=
  ∀ (s : State) (f : Nat → RawBlockSet) (last : RawBlockSet) (ver : Version) (j : Nat),
    s.cfg.legal = true → s.Sized → (∀ k, k < 16 → CarriesText s.cfg .a k (f k)) → CarriesText s.cfg ver j last → j < 15 →
    ∃ t : State,
      execAll (((List.range 16).map fun k => .update (f k)) ++ [.update last]) s = .next t ∧
      ∀ k, k < 16 →
        getByte t.record.accText (4 * k) = (f k).c.extractLsb' 8 8 ∧
        getByte t.record.accText (4 * k + 1) = (f k).c.extractLsb' 0 8 ∧
        getByte t.record.accText (4 * k + 2) = (f k).d.extractLsb' 8 8 ∧
        getByte t.record.accText (4 * k + 3) = (f k).d.extractLsb' 0 8

/-- R163, R165, R169: from every state of a legal configuration, sixteen strictly usable version-B fragments in order and then any group-2
fragment that wraps put their 32 characters into `acc_text`, before the older contents of positions 32 to 63. -/
def Obligations.TextSweepVersionBIsAccepted : Prop :=
  ∀ (s : State) (f : Nat → RawBlockSet) (last : RawBlockSet) (ver : Version) (j : Nat),
    s.cfg.legal = true → s.Sized → (∀ k, k < 16 → CarriesText s.cfg .b k (f k)) → CarriesText s.cfg ver j last → j < 15 →
    ∃ t : State,
      execAll (((List.range 16).map fun k => .update (f k)) ++ [.update last]) s = .next t ∧
      (∀ k, k < 16 →
        getByte t.record.accText (2 * k) = (f k).d.extractLsb' 8 8 ∧
        getByte t.record.accText (2 * k + 1) = (f k).d.extractLsb' 0 8) ∧
      (∀ i, 32 ≤ i → i < s.cfg.textLen → getByte t.record.accText i = getByte s.text.rxText i)

/-! ### The parameters -/

/-- R86: "A model for another tuner supplies its own three functions". Whatever functions return what R86 says they must, a
legal configuration holds them as its STATUS_DECODE. That the parameter has the form of expressions is the model's
choice (log 3). -/
def Obligations.EveryStatusDecodeCanBeSupplied : Prop :=
  ∀ (cfg : Config) (sync : Word → Word → Bool) (errAb errCd : Word → Word → Nat), cfg.legal = true →
    (∀ s0 s1, errAb s0 s1 < 2 ^ cfg.errW) → (∀ s0 s1, errCd s0 s1 < 2 ^ cfg.errW) →
    ∃ d : StatusDecode, { cfg with statusDecode := d }.legal = true ∧
      ∀ bs : RawBlockSet, syncOf { cfg with statusDecode := d } bs = sync bs.s0 bs.s1 ∧
        errAbOf { cfg with statusDecode := d } bs = errAb bs.s0 bs.s1 ∧
        errCdOf { cfg with statusDecode := d } bs = errCd bs.s0 bs.s1
end

