-- ==== Sys2Proof/Laws/State.lean ====
section
/-! SUPPORT. One lemma per field per update of State, true by rfl. -/

namespace Sys2Proof.Machine

variable (s : State)

@[simp] theorem State.withName_cfg (n : NameAcc) : (s.withName n).cfg = s.cfg := rfl
@[simp] theorem State.withName_name (n : NameAcc) : (s.withName n).name = n := rfl
@[simp] theorem State.withName_text (n : NameAcc) : (s.withName n).text = s.text := rfl
@[simp] theorem State.withName_record (n : NameAcc) : (s.withName n).record = s.record := rfl
@[simp] theorem State.withName_pending (n : NameAcc) : (s.withName n).pending = s.pending := rfl
@[simp] theorem State.withName_response (n : NameAcc) : (s.withName n).response = s.response := rfl

@[simp] theorem State.withText_cfg (t : TextAcc) : (s.withText t).cfg = s.cfg := rfl
@[simp] theorem State.withText_name (t : TextAcc) : (s.withText t).name = s.name := rfl
@[simp] theorem State.withText_text (t : TextAcc) : (s.withText t).text = t := rfl
@[simp] theorem State.withText_record (t : TextAcc) : (s.withText t).record = s.record := rfl
@[simp] theorem State.withText_pending (t : TextAcc) : (s.withText t).pending = s.pending := rfl
@[simp] theorem State.withText_response (t : TextAcc) : (s.withText t).response = s.response := rfl

@[simp] theorem State.withRecord_cfg (r : Record) : (s.withRecord r).cfg = s.cfg := rfl
@[simp] theorem State.withRecord_name (r : Record) : (s.withRecord r).name = s.name := rfl
@[simp] theorem State.withRecord_text (r : Record) : (s.withRecord r).text = s.text := rfl
@[simp] theorem State.withRecord_record (r : Record) : (s.withRecord r).record = r := rfl
@[simp] theorem State.withRecord_pending (r : Record) : (s.withRecord r).pending = s.pending := rfl
@[simp] theorem State.withRecord_response (r : Record) : (s.withRecord r).response = s.response := rfl

@[simp] theorem State.withPending_cfg (ws : List Word) : (s.withPending ws).cfg = s.cfg := rfl
@[simp] theorem State.withPending_name (ws : List Word) : (s.withPending ws).name = s.name := rfl
@[simp] theorem State.withPending_text (ws : List Word) : (s.withPending ws).text = s.text := rfl
@[simp] theorem State.withPending_record (ws : List Word) : (s.withPending ws).record = s.record := rfl
@[simp] theorem State.withPending_pending (ws : List Word) : (s.withPending ws).pending = ws := rfl
@[simp] theorem State.withPending_response (ws : List Word) : (s.withPending ws).response = s.response := rfl

@[simp] theorem State.withResponse_cfg (r : Option Word) : (s.withResponse r).cfg = s.cfg := rfl
@[simp] theorem State.withResponse_name (r : Option Word) : (s.withResponse r).name = s.name := rfl
@[simp] theorem State.withResponse_text (r : Option Word) : (s.withResponse r).text = s.text := rfl
@[simp] theorem State.withResponse_record (r : Option Word) : (s.withResponse r).record = s.record := rfl
@[simp] theorem State.withResponse_pending (r : Option Word) : (s.withResponse r).pending = s.pending := rfl
@[simp] theorem State.withResponse_response (r : Option Word) : (s.withResponse r).response = r := rfl

@[simp] theorem State.powerUp_cfg (cfg : Config) : (State.powerUp cfg).cfg = cfg := rfl
@[simp] theorem State.powerUp_name (cfg : Config) : (State.powerUp cfg).name = .reset cfg := rfl
@[simp] theorem State.powerUp_text (cfg : Config) : (State.powerUp cfg).text = .reset cfg := rfl
@[simp] theorem State.powerUp_record (cfg : Config) : (State.powerUp cfg).record = .reset cfg := rfl
@[simp] theorem State.powerUp_pending (cfg : Config) : (State.powerUp cfg).pending = [] := rfl
@[simp] theorem State.powerUp_response (cfg : Config) : (State.powerUp cfg).response = none := rfl

@[ext] theorem State.ext_fields {s t : State} (cfg : s.cfg = t.cfg) (name : s.name = t.name) (text : s.text = t.text)
    (record : s.record = t.record) (pending : s.pending = t.pending) (response : s.response = t.response) : s = t := by
  cases s; cases t; simp_all

end Sys2Proof.Machine
end

