-- ==== Sys2Proof/Laws/Buffers.lean ====
section
/-! SUPPORT. Reading and writing the byte buffers: read after write, untouched positions, equality byte by byte. -/

namespace Sys2Proof.Machine

theorem getByte_replicate (c : Byte) {n i : Nat} (h : i < n) : getByte (List.replicate n c) i = c := by
  simp [getByte, h]

theorem getByte_set (v : List Byte) (i j : Nat) (c : Byte) (h : i < v.length) :
    getByte (v.set i c) j = if i = j then c else getByte v j := by
  unfold getByte
  rw [List.getElem?_set]
  split <;> simp_all

/-- Two buffers of one length with the same bytes are equal. -/
theorem eq_of_getByte {v w : List Byte} (hl : v.length = w.length)
    (h : ∀ i, i < v.length → getByte v i = getByte w i) : v = w := by
  refine List.ext_getElem hl fun i hv hw => ?_
  simpa [getByte, hv, hw] using h i hv

@[simp] theorem length_setPair (v : List Byte) (i : Nat) (w : Word) : (setPair v i w).length = v.length := by
  simp [setPair]

@[simp] theorem length_textFragment (ver : Version) (bs : RawBlockSet) (v : List Byte) :
    (textFragment ver bs v).length = v.length := by
  cases ver <;> simp [textFragment]

/-- Every byte of a buffer after a pair is stored (R61). -/
theorem getByte_setPair (v : List Byte) (i j : Nat) (w : Word) (h : i + 1 < v.length) :
    getByte (setPair v i w) j = if j = i then hiByte w else if j = i + 1 then loByte w else getByte v j := by
  unfold setPair
  rw [getByte_set _ _ _ _ (by simpa using h), getByte_set _ _ _ _ (by omega)]
  by_cases h1 : j = i
  · subst h1; simp
  · by_cases h2 : j = i + 1
    · subst h2; simp
    · simp [h1, h2, Ne.symm h1, Ne.symm h2]

/-- Storing a pair twice at one place is storing it once (R130). -/
theorem setPair_setPair (v : List Byte) (i : Nat) (w : Word) : setPair (setPair v i w) i w = setPair v i w := by
  have h : ∀ a b : Byte, (((v.set i a).set (i + 1) b).set i a).set (i + 1) b = (v.set i a).set (i + 1) b := by
    intro a b
    rw [List.set_comm b a (by omega), List.set_set, List.set_set]
  exact h _ _

/-- Pairs stored at places two apart do not touch each other. -/
theorem setPair_comm (v : List Byte) (i : Nat) (x y : Word) :
    setPair (setPair v i x) (i + 2) y = setPair (setPair v (i + 2) y) i x := by
  unfold setPair
  rw [List.set_comm (i := i + 1) (j := i + 2) _ _ (by omega), List.set_comm (i := i) (j := i + 2) _ _ (by omega),
    List.set_comm (i := i + 1) (j := i + 2 + 1) _ _ (by omega), List.set_comm (i := i) (j := i + 2 + 1) _ _ (by omega)]

/-- A name fragment's last position is at most 7 (R65). -/
theorem namePos_lt (bs : RawBlockSet) : bs.namePos + 1 < 8 := by
  have := bs.seg2.isLt
  simp only [RawBlockSet.namePos]; omega

/-- A version-A text fragment's last position is at most 63 (R65). -/
theorem textPosA_lt (bs : RawBlockSet) : bs.textPosA + 3 < 64 := by
  have := bs.seg4.isLt
  simp only [RawBlockSet.textPosA]; omega

/-- A version-B text fragment's positions are at most 31 (R65, R169). -/
theorem textPosB_lt (bs : RawBlockSet) : bs.textPosB + 1 < 32 := by
  have := bs.seg4.isLt
  simp only [RawBlockSet.textPosB]; omega

/-- Every byte of the text buffer after a version-A fragment (R62, R164). -/
theorem getByte_textFragment_a (bs : RawBlockSet) (v : List Byte) (j : Nat) (h : 63 < v.length) :
    getByte (textFragment .a bs v) j =
      if j = bs.textPosA then hiByte bs.c else if j = bs.textPosA + 1 then loByte bs.c
      else if j = bs.textPosA + 2 then hiByte bs.d else if j = bs.textPosA + 3 then loByte bs.d
      else getByte v j := by
  have hp := textPosA_lt bs
  simp only [textFragment]
  rw [getByte_setPair _ _ _ _ (by rw [length_setPair]; omega), getByte_setPair _ _ _ _ (by omega)]
  split_ifs <;> first | rfl | omega

/-- Every byte of the text buffer after a version-B fragment (R61, R165). -/
theorem getByte_textFragment_b (bs : RawBlockSet) (v : List Byte) (j : Nat) (h : 63 < v.length) :
    getByte (textFragment .b bs v) j =
      if j = bs.textPosB then hiByte bs.d else if j = bs.textPosB + 1 then loByte bs.d else getByte v j := by
  have hp := textPosB_lt bs
  exact getByte_setPair _ _ _ _ (by omega)

/-- The same text fragment twice is the fragment once (R130). -/
theorem textFragment_textFragment (ver : Version) (bs : RawBlockSet) (v : List Byte) :
    textFragment ver bs (textFragment ver bs v) = textFragment ver bs v := by
  cases ver
  · simp only [textFragment]
    rw [← setPair_comm, setPair_setPair, setPair_setPair]
  · exact setPair_setPair _ _ _

end Sys2Proof.Machine
end

