-- ==== Sys2Proof/Laws/Decode.lean ====
section
/-! SUPPORT. The decoder's small lemmas: one per command form, and the rows a block set fits. -/

namespace Sys2Proof

variable (rest : List Word)

@[simp] theorem decode_nil : decode [] = .error .noCommand := rfl

theorem decode_illegal {w : Word} (h : legalCommand w = false) : decode (w :: rest) = .error .illegalCommand := by
  simp [decode, h]

theorem decode_nop_word : decode (0x0000#16 :: rest) = .ok (.nop, rest) := rfl

theorem decode_reset_word : decode (0x2000#16 :: rest) = .ok (.reset, rest) := rfl

theorem decode_update_words (a b c d s0 s1 : Word) :
    decode (0x1000#16 :: a :: b :: c :: d :: s0 :: s1 :: rest) =
      .ok (.update { a := a, b := b, c := c, d := d, s0 := s0, s1 := s1 }, rest) := rfl

/-- The fields of a READ word (R81, R97). -/
theorem read_word_fields (addr : BitVec 8) :
    legalCommand (0x30#8 ++ addr) = true ∧ cmdOp (0x30#8 ++ addr) = 3#4 ∧ cmdAddr (0x30#8 ++ addr) = addr := by
  revert addr; decide

theorem decode_read_word (addr : BitVec 8) : decode ((0x30#8 ++ addr : Word) :: rest) = .ok (.read addr, rest) := by
  obtain ⟨hl, ho, ha⟩ := read_word_fields addr
  simp [decode, hl, ho, ha]

theorem Row.fits_iff (r : Row) (w : Word) : r.fits w = true ↔ w &&& r.mask = r.pattern := by
  unfold Row.fits; exact decide_eq_true_iff

/-- The group type under the mask of a row that fixes it (R88). -/
theorem groupType_of_masked {bs : RawBlockSet} {p : Word} (h : bs.b &&& 0xF000#16 = p) :
    bs.groupType = p.extractLsb' 12 4 := by
  subst h
  unfold RawBlockSet.groupType
  ext i hi
  simp only [BitVec.getElem_extractLsb', BitVec.getLsbD_and]
  interval_cases i <;> simp

/-- The group type and the version bit under the mask of a group-2 row (R88). -/
theorem group_version_of_masked {bs : RawBlockSet} {p : Word} (h : bs.b &&& 0xF800#16 = p) :
    bs.groupType = p.extractLsb' 12 4 ∧ bs.b.getLsbD 11 = p.getLsbD 11 := by
  subst h
  refine ⟨?_, by simp⟩
  unfold RawBlockSet.groupType
  ext i hi
  simp only [BitVec.getElem_extractLsb', BitVec.getLsbD_and]
  interval_cases i <;> simp

/-- Every row of the dispatch map carries the block set itself (R95). -/
theorem groupRow_armSet (bs : RawBlockSet) : (groupRow bs).armSet = some bs := by
  unfold groupRow
  split
  case h_3 => split <;> rfl
  all_goals rfl

end Sys2Proof
end

