-- ==== Sys2Proof/Laws/Flags.lean ====
section
/-! SUPPORT. The verdicts, checks and events of Machine/Flags.lean as propositions about numbers. -/

namespace Sys2Proof.Machine

variable (cfg : Config) (bs : RawBlockSet)

theorem usableName_iff : usableName cfg bs = true ↔ syncOf cfg bs = true ∧ esum cfg bs ≤ cfg.nameErrMax := by
  unfold usableName; simp only [Bool.and_eq_true, decide_eq_true_eq]

theorem usableStrict_iff : usableStrict cfg bs = true ↔ syncOf cfg bs = true ∧ esum cfg bs ≤ cfg.strictErrMax := by
  unfold usableStrict; simp only [Bool.and_eq_true, decide_eq_true_eq]

theorem charAccepted_iff (c : Byte) :
    charAccepted cfg c = true ↔ cfg.nameCharMin ≤ c.toNat ∧ c.toNat ≤ cfg.nameCharMax := by
  unfold charAccepted; simp only [Bool.and_eq_true, decide_eq_true_eq]

/-- An expression never exceeds its bound. -/
theorem statusValue_le_bound (e : StatusExpr) : bs.statusValue e ≤ e.bound := by
  induction e with
  | lit n => exact Nat.le_refl n
  | field word lo width =>
    have := Nat.mod_lt ((bs.status word).toNat / 2 ^ lo) (Nat.two_pow_pos width)
    simp only [RawBlockSet.statusValue, StatusExpr.bound]; omega
  | add x y hx hy => exact Nat.add_le_add hx hy
  | ifEq x y a b _ _ ha hb =>
    simp only [RawBlockSet.statusValue, StatusExpr.bound]
    split <;> omega

/-- Both characters of a name pair, as bits of block D (R89, R141). -/
theorem pairAccepted_iff (d : Word) :
    pairAccepted cfg d = true ↔
      (cfg.nameCharMin ≤ (d.extractLsb' 8 8).toNat ∧ (d.extractLsb' 8 8).toNat ≤ cfg.nameCharMax) ∧
      (cfg.nameCharMin ≤ (d.extractLsb' 0 8).toNat ∧ (d.extractLsb' 0 8).toNat ≤ cfg.nameCharMax) := by
  unfold pairAccepted; rw [Bool.and_eq_true, charAccepted_iff, charAccepted_iff]; rfl

/-- An accepted pair never skips the UPDATE (R212). -/
theorem tickSkipped_of_accepted (h : pairAccepted cfg bs.d = true) : tickSkipped cfg bs = false := by
  simp [tickSkipped, h]

theorem nameWrap_iff (n : NameAcc) : nameWrap bs n = true ↔ bs.seg2.toNat < n.nameLastOff.toNat := by
  unfold nameWrap; exact decide_eq_true_iff

theorem textWrap_iff (t : TextAcc) : textWrap bs t = true ↔ bs.seg4.toNat < t.textLastOff.toNat := by
  unfold textWrap; exact decide_eq_true_iff

theorem textToggled_iff (t : TextAcc) :
    textToggled bs t = true ↔ t.textAbValid = true ∧ bs.textAb ≠ t.textAbLast := by
  unfold textToggled; rw [Bool.and_eq_true, bne_iff_ne]

theorem timeInRange_iff : timeInRange bs = true ↔ bs.hour.toNat ≤ 23 ∧ bs.minute.toNat ≤ 59 := by
  unfold timeInRange; simp only [Bool.and_eq_true, decide_eq_true_eq]

theorem emergencyOf_iff : emergencyOf cfg bs = true ↔ bs.slowLabel = cfg.emergencyCode := by
  unfold emergencyOf; exact decide_eq_true_iff

theorem legal_iff : cfg.legal = true ↔
    1 ≤ cfg.validity ∧ cfg.validity ≤ 255 ∧ cfg.nameCharMin ≤ cfg.nameCharMax ∧ cfg.errW ≠ 0 ∧ 7 < cfg.nameLen ∧
      63 < cfg.textLen ∧ cfg.statusDecode.conforms cfg.errW = true := by
  unfold Config.legal; simp only [Bool.and_eq_true, decide_eq_true_eq, and_assoc]

end Sys2Proof.Machine
end

