-- ==== Sys2Proof/Laws/Ops.lean ====
section
/-! SUPPORT. One lemma per shared operation that says everything it can do; later proofs cite these. -/

namespace Sys2Proof.Machine

variable (bs : RawBlockSet) (s : State)

/-! ### The guards -/

theorem whenName_of_usable {f : State → State} (h : usableName s.cfg bs = true) : whenName bs f s = f s := by
  simp [whenName, h]

theorem whenName_of_unusable {f : State → State} (h : usableName s.cfg bs = false) : whenName bs f s = s := by
  simp [whenName, h]

theorem whenStrict_of_usable {f : State → State} (h : usableStrict s.cfg bs = true) : whenStrict bs f s = f s := by
  simp [whenStrict, h]

theorem whenStrict_of_unusable {f : State → State} (h : usableStrict s.cfg bs = false) : whenStrict bs f s = s := by
  simp [whenStrict, h]

/-- Only a group-0 block set can be skipped whole (R212). -/
theorem tickSkipped_of_group {cfg : Config} (h : bs.groupType ≠ 0#4) : tickSkipped cfg bs = false := by
  simp [tickSkipped, h]

/-- Without sync both verdicts are false (R124, R125). -/
theorem unusable_of_no_sync {cfg : Config} (h : syncOf cfg bs = false) :
    usableName cfg bs = false ∧ usableStrict cfg bs = false := by
  simp [usableName, usableStrict, h]

/-! ### The name accumulator -/

/-- The three outcomes of a wrap (R144). -/
theorem validateSweep_cases :
    (s.name.rxName ≠ s.name.candName ∧
      validateSweep s = s.withName { s.name with candName := s.name.rxName, nameCycles := 0#8 }) ∨
    (s.name.rxName = s.name.candName ∧ s.name.nameCycles.toNat + 1 < s.cfg.validity ∧
      validateSweep s = s.withName { s.name with nameCycles := s.name.nameCycles + 1#8 }) ∨
    (s.name.rxName = s.name.candName ∧ s.cfg.validity ≤ s.name.nameCycles.toNat + 1 ∧
      validateSweep s =
        (s.withRecord { s.record with accName := s.name.rxName }).withName { s.name with nameCycles := 0#8 }) := by
  unfold validateSweep
  by_cases h : s.name.rxName = s.name.candName
  · by_cases hv : s.cfg.validity ≤ s.name.nameCycles.toNat + 1
    · right; right; simp [h, hv]
    · right; left; exact ⟨h, by omega, by simp [h, hv]⟩
  · left; simp [h]

/-- A wrap changes the name elements and `acc_name` alone. -/
theorem validateSweep_frame :
    ∃ c k a, validateSweep s =
      (s.withRecord { s.record with accName := a }).withName { s.name with candName := c, nameCycles := k } := by
  rcases validateSweep_cases s with ⟨-, h⟩ | ⟨-, -, h⟩ | ⟨-, -, h⟩
  · exact ⟨_, _, s.record.accName, h⟩
  · exact ⟨s.name.candName, _, s.record.accName, h⟩
  · exact ⟨s.name.candName, _, _, h⟩

/-- NAME_STEP rejects the pair, or accepts it without a wrap, or with one (R140). -/
theorem nameStep_cases :
    (pairAccepted s.cfg bs.d = false ∧ nameStep bs s = s) ∨
    (pairAccepted s.cfg bs.d = true ∧ nameWrap bs s.name = false ∧ nameStep bs s = writeNameFragment bs s) ∨
    (pairAccepted s.cfg bs.d = true ∧ nameWrap bs s.name = true ∧
      nameStep bs s = writeNameFragment bs (validateSweep s)) := by
  unfold nameStep
  cases pairAccepted s.cfg bs.d <;> cases nameWrap bs s.name <;> simp

/-- NAME_STEP changes the name elements and `acc_name` alone. -/
theorem nameStep_frame :
    ∃ n a, nameStep bs s = (s.withRecord { s.record with accName := a }).withName n := by
  rcases nameStep_cases bs s with ⟨-, h⟩ | ⟨-, -, h⟩ | ⟨-, -, h⟩
  · exact ⟨s.name, s.record.accName, h⟩
  · exact ⟨_, s.record.accName, h⟩
  · obtain ⟨c, k, a, hv⟩ := validateSweep_frame s
    exact ⟨_, a, by rw [h, hv]; rfl⟩

/-! ### The text accumulator -/

/-- TEXT_STEP, element by element (R160). -/
theorem textStep_eq (ver : Version) :
    textStep ver bs s =
      ((s.withRecord { s.record with
          clearScreen := s.record.clearScreen || textToggled bs s.text
          accText := if textWrap bs s.text then s.text.rxText else s.record.accText }).withText
        { rxText := textFragment ver bs s.text.rxText
          textLastOff := bs.seg4
          textAbLast := bs.textAb
          textAbValid := true }) := by
  unfold textStep
  cases hw : textWrap bs s.text <;> cases ht : textToggled bs s.text <;>
    simp [noteTextAb, promoteText, writeTextFragment, State.withRecord, State.withText, ht]

/-! ### The extractors -/

/-- The DI flag changes none of the other elements (R180). -/
theorem setDiFlag_frame (r : Record) :
    ∃ x y z, setDiFlag bs r = { r with dynPty := x, compressed := y, stereo := z } := by
  unfold setDiFlag
  split
  · exact ⟨_, _, _, rfl⟩
  · exact ⟨_, _, _, rfl⟩
  · exact ⟨r.dynPty, r.compressed, r.stereo, rfl⟩
  · exact ⟨_, _, _, rfl⟩

/-- COMMON, element by element (R190 to R192). -/
theorem commonStep_eq :
    commonStep bs s = s.withRecord { s.record with
      country := bs.country
      area := bs.area
      ref := bs.ref
      pty := bs.pty
      tp := bs.tp
      version := bs.version
      ta := if refreshesTaMs s.cfg bs then bs.ta else s.record.ta
      ms := if refreshesTaMs s.cfg bs then bs.ms else s.record.ms } := by
  unfold commonStep setTaMs
  split <;> simp_all

/-! ### The parameters, the words pending and the response stay -/

/-- `t` keeps the parameters, the pending words and the response of `s`. -/
def SamePort (s t : State) : Prop := t.cfg = s.cfg ∧ t.pending = s.pending ∧ t.response = s.response

theorem SamePort.rfl {s : State} : SamePort s s := ⟨Eq.refl _, Eq.refl _, Eq.refl _⟩

theorem SamePort.trans {s t u : State} (h : SamePort s t) (k : SamePort t u) : SamePort s u :=
  ⟨k.1.trans h.1, k.2.1.trans h.2.1, k.2.2.trans h.2.2⟩

theorem nameStep_samePort : SamePort s (nameStep bs s) := by
  obtain ⟨n, a, h⟩ := nameStep_frame bs s
  rw [h]; exact ⟨rfl, rfl, rfl⟩

theorem textStep_samePort (ver : Version) : SamePort s (textStep ver bs s) := by
  rw [textStep_eq]; exact ⟨rfl, rfl, rfl⟩

theorem diStep_samePort : SamePort s (diStep bs s) := ⟨rfl, rfl, rfl⟩

theorem slowLabelStep_samePort : SamePort s (slowLabelStep bs s) := ⟨rfl, rfl, rfl⟩

theorem clockStep_samePort : SamePort s (clockStep bs s) := by
  unfold clockStep; split
  · exact ⟨rfl, rfl, rfl⟩
  · exact .rfl

theorem commonStep_samePort : SamePort s (commonStep bs s) := ⟨rfl, rfl, rfl⟩

theorem whenName_samePort {f : State → State} (h : ∀ s, SamePort s (f s)) : SamePort s (whenName bs f s) := by
  unfold whenName; split
  · exact h s
  · exact .rfl

theorem whenStrict_samePort {f : State → State} (h : ∀ s, SamePort s (f s)) : SamePort s (whenStrict bs f s) := by
  unfold whenStrict; split
  · exact h s
  · exact .rfl

theorem groupArms_samePort : SamePort s (groupArms bs s) := by
  unfold groupArms
  split_ifs
  · exact (whenName_samePort bs s (nameStep_samePort bs)).trans (whenStrict_samePort bs _ (diStep_samePort bs))
  · exact whenStrict_samePort bs s (slowLabelStep_samePort bs)
  · exact whenStrict_samePort bs s (fun t => textStep_samePort bs t _)
  · exact whenStrict_samePort bs s (clockStep_samePort bs)
  · exact .rfl

theorem updateBlock_samePort : SamePort s (updateBlock bs s) := by
  unfold updateBlock
  split
  · exact .rfl
  · exact (groupArms_samePort bs s).trans (whenStrict_samePort bs _ (commonStep_samePort bs))

theorem resetBlock_samePort : SamePort s (resetBlock s) := ⟨rfl, rfl, rfl⟩

/-! ### Fetching -/

/-- What a fetch can answer (R83, R85, R9, R263). -/
theorem fetch_cases :
    (s.cfg.legal = false ∧ fetch s = .stop .illegalConfig) ∨
    (s.cfg.legal = true ∧ decode s.pending = .error .noCommand ∧ fetch s = .idle) ∨
    (s.cfg.legal = true ∧ decode s.pending = .error .illegalCommand ∧ fetch s = .stop .illegalCommand) ∨
    (s.cfg.legal = true ∧ decode s.pending = .error .incompleteCommand ∧ fetch s = .stop .incompleteCommand) ∨
    (∃ i rest, s.cfg.legal = true ∧ decode s.pending = .ok (i, rest) ∧
      fetch s = .command i ((s.withPending rest).withResponse none)) := by
  unfold fetch
  cases hl : s.cfg.legal
  · simp
  · rcases hd : decode s.pending with e | ⟨i, rest⟩
    · cases e <;> simp
    · simp

end Sys2Proof.Machine
end

