-- ==== Sys2Proof/Laws/PerInstr.lean ====
section
/-! SUPPORT. Laws of every instruction as syntax, one lemma per constructor. -/

namespace Sys2Proof.Laws.MatchesTable

/-- The word of an instruction that its row of the opcode table describes: a command's first word, a block set's block B. -/
def tableWord (i : Instr) : Word :=
  match i.armSet with
  | none => (encode i).headD 0#16
  | some _ => (encode i).getD 1 0#16

/-- A well-formed instruction is encoded by words that fit its row of spec/opcode_table.json (R82, R95). -/
def Statement (i : Instr) : Prop := i.wf = true → i.row.fits (tableWord i) = true

theorem nop : Statement .nop := fun _ => by decide
theorem update (bs : RawBlockSet) : Statement (.update bs) := fun _ =>
  (by decide : Row.fits { pattern := 0x1000#16, mask := 0xFFFF#16 } 0x1000#16 = true)
theorem reset : Statement .reset := fun _ => by decide
theorem read (addr : BitVec 8) : Statement (.read addr) := fun _ => by
  have h : (0x30#8 ++ addr : Word) &&& 0xFF00#16 = 0x3000#16 := by revert addr; decide
  simpa [tableWord, Instr.armSet, encode, Row.fits, Instr.row] using h
theorem g0PsDi (bs : RawBlockSet) : Statement (.g0PsDi bs) := id
theorem g0Di (bs : RawBlockSet) : Statement (.g0Di bs) := id
theorem g1SlPin (bs : RawBlockSet) : Statement (.g1SlPin bs) := id
theorem g2aRt (bs : RawBlockSet) : Statement (.g2aRt bs) := id
theorem g2bRt (bs : RawBlockSet) : Statement (.g2bRt bs) := id
theorem g4Ct (bs : RawBlockSet) : Statement (.g4Ct bs) := id
theorem g3Ignored (bs : RawBlockSet) : Statement (.g3Ignored bs) := id
theorem g5Ignored (bs : RawBlockSet) : Statement (.g5Ignored bs) := id
theorem g6Ignored (bs : RawBlockSet) : Statement (.g6Ignored bs) := id
theorem g7Ignored (bs : RawBlockSet) : Statement (.g7Ignored bs) := id
theorem g8Ignored (bs : RawBlockSet) : Statement (.g8Ignored bs) := id
theorem g9Ignored (bs : RawBlockSet) : Statement (.g9Ignored bs) := id
theorem g10Ignored (bs : RawBlockSet) : Statement (.g10Ignored bs) := id
theorem g11Ignored (bs : RawBlockSet) : Statement (.g11Ignored bs) := id
theorem g12Ignored (bs : RawBlockSet) : Statement (.g12Ignored bs) := id
theorem g13Ignored (bs : RawBlockSet) : Statement (.g13Ignored bs) := id
theorem g14Ignored (bs : RawBlockSet) : Statement (.g14Ignored bs) := id
theorem g15Ignored (bs : RawBlockSet) : Statement (.g15Ignored bs) := id
theorem common (bs : RawBlockSet) : Statement (.common bs) := id

end Sys2Proof.Laws.MatchesTable
end

