-- ==== Sys2Proof/Laws/Sizes.lean ====
section
/-! SUPPORT. Every shared operation keeps the lengths of the buffers. -/

namespace Sys2Proof.Machine

variable (bs : RawBlockSet) (s : State)

theorem powerUp_sized (cfg : Config) : (State.powerUp cfg).Sized := by
  constructor <;> simp [NameAcc.reset, TextAcc.reset, Record.reset]

theorem resetBlock_sized : (resetBlock s).Sized := by
  constructor <;> simp [resetBlock, NameAcc.reset, TextAcc.reset, Record.reset]

variable {s}

theorem readRegister_sized (addr : BitVec 8) (h : s.Sized) : (readRegister addr s).Sized := by
  unfold readRegister
  split <;> exact ⟨h.rxName, h.candName, h.accName, h.rxText, h.accText⟩

theorem validateSweep_sized (h : s.Sized) : (validateSweep s).Sized := by
  rcases validateSweep_cases s with ⟨-, e⟩ | ⟨-, -, e⟩ | ⟨-, -, e⟩ <;> rw [e]
  · exact ⟨h.rxName, h.rxName, h.accName, h.rxText, h.accText⟩
  · exact ⟨h.rxName, h.candName, h.accName, h.rxText, h.accText⟩
  · exact ⟨h.rxName, h.candName, h.rxName, h.rxText, h.accText⟩

theorem writeNameFragment_sized (h : s.Sized) : (writeNameFragment bs s).Sized :=
  ⟨(length_setPair _ _ _).trans h.rxName, h.candName, h.accName, h.rxText, h.accText⟩

theorem nameStep_sized (h : s.Sized) : (nameStep bs s).Sized := by
  rcases nameStep_cases bs s with ⟨-, e⟩ | ⟨-, -, e⟩ | ⟨-, -, e⟩ <;> rw [e]
  · exact h
  · exact writeNameFragment_sized bs h
  · exact writeNameFragment_sized bs (validateSweep_sized h)

theorem textStep_sized (ver : Version) (h : s.Sized) : (textStep ver bs s).Sized := by
  rw [textStep_eq]
  refine ⟨h.rxName, h.candName, h.accName, (length_textFragment ver bs _).trans h.rxText, ?_⟩
  simp only [State.withText_record, State.withRecord_record]
  split
  · exact h.rxText
  · exact h.accText

theorem diStep_sized (h : s.Sized) : (diStep bs s).Sized := by
  obtain ⟨x, y, z, e⟩ := setDiFlag_frame bs s.record
  rw [diStep, e]
  exact ⟨h.rxName, h.candName, h.accName, h.rxText, h.accText⟩

theorem slowLabelStep_sized (h : s.Sized) : (slowLabelStep bs s).Sized :=
  ⟨h.rxName, h.candName, h.accName, h.rxText, h.accText⟩

theorem clockStep_sized (h : s.Sized) : (clockStep bs s).Sized := by
  unfold clockStep
  split <;> exact ⟨h.rxName, h.candName, h.accName, h.rxText, h.accText⟩

theorem commonStep_sized (h : s.Sized) : (commonStep bs s).Sized := by
  rw [commonStep_eq]
  exact ⟨h.rxName, h.candName, h.accName, h.rxText, h.accText⟩

theorem whenName_sized {f : State → State} (hf : ∀ s : State, s.Sized → (f s).Sized) (h : s.Sized) :
    (whenName bs f s).Sized := by
  unfold whenName; split
  · exact hf s h
  · exact h

theorem whenStrict_sized {f : State → State} (hf : ∀ s : State, s.Sized → (f s).Sized) (h : s.Sized) :
    (whenStrict bs f s).Sized := by
  unfold whenStrict; split
  · exact hf s h
  · exact h

theorem groupArms_sized (h : s.Sized) : (groupArms bs s).Sized := by
  unfold groupArms
  split_ifs
  · exact whenStrict_sized bs (fun _ => diStep_sized bs) (whenName_sized bs (fun _ => nameStep_sized bs) h)
  · exact whenStrict_sized bs (fun _ => slowLabelStep_sized bs) h
  · exact whenStrict_sized bs (fun _ => textStep_sized bs _) h
  · exact whenStrict_sized bs (fun _ => clockStep_sized bs) h
  · exact h

theorem updateBlock_sized (h : s.Sized) : (updateBlock bs s).Sized := by
  unfold updateBlock; split
  · exact h
  · exact whenStrict_sized bs (fun _ => commonStep_sized bs) (groupArms_sized bs h)

end Sys2Proof.Machine
end

