-- ==== Sys2Proof/Machine/Assembler.lean ====
section
/-! DEFINITION. The register names of R97 and the commands and pseudo-commands of R97 and R98, each with the one command
it stands for. The spec uses them in its vectors; the block never sees them (DEDUCED, log 21, safe). -/

namespace Sys2Proof.Machine

/-- A register name of the read map (R40, R97). -/
inductive RegName where
  | pi
  | ptyver
  | flags
  | clrscr
  | time
  | pin
  | name (k : Fin 4)
  | text (k : Fin 32)
  deriving DecidableEq, Repr

/-- The address of a register name (R40). -/
def RegName.addr : RegName → BitVec 8
  | .pi => 0x00#8
  | .ptyver => 0x01#8
  | .flags => 0x02#8
  | .clrscr => 0x03#8
  | .time => 0x04#8
  | .pin => 0x05#8
  | .name k => BitVec.ofNat 8 (0x10 + k.val)
  | .text k => BitVec.ofNat 8 (0x40 + k.val)

/-- A line of the command syntax (R97) or a pseudo-command (R98); `err` is the trailing `err=<S1>`, 0 by default.
Characters are given as bytes (R12). NOSYNC takes no `err`: the general sentence of R98 gives one to each pseudo-command, its
row of the table fixes S1 = 0, and the model follows the row (DESIGN CHOICE, log 24, safe). -/
inductive AsmLine where
  | nop
  | reset
  | read (addr : BitVec 8)
  | readReg (r : RegName)
  | update (a b c d s0 s1 : Word)
  | ps (pi : Word) (seg : BitVec 2) (x y : Byte) (err : Word)
  | rta (pi : Word) (ab : Bool) (idx : BitVec 4) (w x y z : Byte) (err : Word)
  | rtb (pi : Word) (ab : Bool) (idx : BitVec 4) (x y : Byte) (err : Word)
  | sl (pi : Word) (code : BitVec 3) (day hour : BitVec 5) (minute : BitVec 6) (err : Word)
  | ct (pi : Word) (h : BitVec 5) (m : BitVec 6) (err : Word)
  | nosync
  deriving DecidableEq, Repr

/-- `"xy"`: `(code(x) << 8) | code(y)` (R98). -/
def pairWord (x y : Byte) : Word := x ++ y

/-- `(ab << 4) | idx` over a base word (R98). -/
def textBlockB (base : Word) (ab : Bool) (idx : BitVec 4) : Word :=
  base ||| ((BitVec.ofBool ab).setWidth 16 <<< 4) ||| idx.setWidth 16

/-- The one command a line stands for (R97, R98). S0 = 0x1000 is "synchronised" under the default STATUS_DECODE only (R99). -/
def AsmLine.expand : AsmLine → Instr
  | .nop => .nop
  | .reset => .reset
  | .read addr => .read addr
  | .readReg r => .read r.addr
  | .update a b c d s0 s1 => .update { a := a, b := b, c := c, d := d, s0 := s0, s1 := s1 }
  | .ps pi seg x y err =>
    .update { a := pi, b := seg.setWidth 16, c := 0#16, d := pairWord x y, s0 := 0x1000#16, s1 := err }
  | .rta pi ab idx w x y z err =>
    .update { a := pi, b := textBlockB 0x2000#16 ab idx, c := pairWord w x, d := pairWord y z, s0 := 0x1000#16, s1 := err }
  | .rtb pi ab idx x y err =>
    .update { a := pi, b := textBlockB 0x2800#16 ab idx, c := pi, d := pairWord x y, s0 := 0x1000#16, s1 := err }
  | .sl pi code day hour minute err =>
    .update { a := pi, b := 0x1000#16, c := code.setWidth 16 <<< 12, d := day ++ hour ++ minute, s0 := 0x1000#16, s1 := err }
  | .ct pi h m err =>
    .update { a := pi, b := 0x4000#16, c := (h >>> 4).setWidth 16, d := h.extractLsb' 0 4 ++ m ++ 0#6, s0 := 0x1000#16, s1 := err }
  | .nosync => .update { a := 0#16, b := 0#16, c := 0#16, d := 0#16, s0 := 0#16, s1 := 0#16 }

/-- The words of a line (R97). -/
def AsmLine.words (l : AsmLine) : List Word := encode l.expand

end Sys2Proof.Machine
end

