-- ==== Sys2Proof/Tests/Slice0.lean ====
section
/-! SUPPORT. Small tests, their expected results from spec/95_test_vectors.md and the rules' own examples, and a witness
for the hypotheses of every statement. -/

namespace Sys2Proof.Tests

open Sys2Proof.Machine

/-! ### Helpers -/

/-- The state an instruction leaves; the state itself where it stops. -/
def after (i : Instr) (s : State) : State :=
  match exec i s with
  | .next t => t
  | .fault _ => s
  | .refused _ => s

/-- A block set with status S0 = 0x1000 and S1 = 0, as the pseudo-commands have it (R98). -/
def clean (a b c d : Word) : RawBlockSet := { a := a, b := b, c := c, d := d, s0 := 0x1000#16, s1 := 0x0000#16 }

/-- Eight bytes as a name buffer. -/
def name8 (b0 b1 b2 b3 b4 b5 b6 b7 : Byte) : List Byte := [b0, b1, b2, b3, b4, b5, b6, b7]

/-- The reset state with another configuration. -/
def resetWith (f : Config → Config) : State := .powerUp (f .default)

/-! ### WellFormed: an ill-formed term for each row's check -/

theorem test_wf_refuses_wrong_block_b :
    [Instr.g0PsDi (clean 0 0x1000 0 0), .g0Di (clean 0 0x8000 0 0), .g1SlPin (clean 0 0x0FFF 0 0),
      .g2aRt (clean 0 0x2800 0 0), .g2bRt (clean 0 0x27FF 0 0), .g4Ct (clean 0 0x5000 0 0),
      .g3Ignored (clean 0 0x2FFF 0 0), .g5Ignored (clean 0 0x4FFF 0 0), .g6Ignored (clean 0 0x7000 0 0),
      .g7Ignored (clean 0 0x6FFF 0 0), .g8Ignored (clean 0 0x0000 0 0), .g9Ignored (clean 0 0x8FFF 0 0),
      .g10Ignored (clean 0 0xB000 0 0), .g11Ignored (clean 0 0xAFFF 0 0), .g12Ignored (clean 0 0xD000 0 0),
      .g13Ignored (clean 0 0xCFFF 0 0), .g14Ignored (clean 0 0xF000 0 0), .g15Ignored (clean 0 0xEFFF 0 0)].all
      (fun i => !i.wf) = true := by decide

theorem test_wf_accepts_commands_and_common :
    [Instr.nop, .reset, .read 0xFF#8, .update (clean 0xFFFF 0xFFFF 0 0), .common (clean 0 0xFFFF 0 0)].all
      (fun i => i.wf) = true := by decide

/-! ### Decode: words written out from 30_encoding.md R82, R97 and the block B of 95_test_vectors.md K1 to K7 -/

theorem test_decode_nop : decode [0b0000000000000000#16] = .ok (.nop, []) := by rfl

theorem test_decode_reset : decode [0b0010000000000000#16, 0x1234#16] = .ok (.reset, [0x1234#16]) := by rfl

theorem test_decode_read_text31 : decode [0b0011000001011111#16] = .ok (.read 0x5F#8, []) := by rfl

theorem test_decode_update :
    decode [0b0001000000000000#16, 1, 2, 3, 4, 5, 6, 7] =
      .ok (.update { a := 1, b := 2, c := 3, d := 4, s0 := 5, s1 := 6 }, [7]) := by rfl

/-- C2 to C4 of 95_test_vectors.md, and NOP and UPDATE words with `addr` not 0. -/
theorem test_decode_refuses_illegal_words :
    [0x4000#16, 0xF000#16, 0x2001#16, 0x3100#16, 0x0001#16, 0x10FF#16, 0x0800#16].all
      (fun w => !legalCommand w) = true := by decide

theorem test_decode_incomplete_update :
    decode [0x1000#16, 1, 2, 3, 4, 5] = .error .incompleteCommand := by rfl

theorem test_encode_commands :
    encode .nop = [0x0000#16] ∧ encode .reset = [0x2000#16] ∧ encode (.read 0x5F#8) = [0x305F#16] ∧
    encode (.update (clean 0x8201 0x0003 0 0x4F21)) =
      [0x1000#16, 0x8201#16, 0x0003#16, 0x0000#16, 0x4F21#16, 0x1000#16, 0x0000#16] := by decide

/-- Every group type and version of block B, in the order of the dispatch map (R95). -/
theorem test_groupRow_every_group :
    ([0x0803#16, 0x1000#16, 0x2413#16, 0x2C1F#16, 0x3000#16, 0x4000#16, 0x5000#16, 0x6000#16, 0x7000#16, 0x8000#16,
        0x9000#16, 0xA000#16, 0xB000#16, 0xC000#16, 0xD000#16, 0xE000#16, 0xF800#16].map
      fun b => decide (groupRow (clean 0 b 0 0) ∈
        [Instr.g0PsDi (clean 0 0x0803 0 0), .g1SlPin (clean 0 0x1000 0 0), .g2aRt (clean 0 0x2413 0 0),
          .g2bRt (clean 0 0x2C1F 0 0), .g3Ignored (clean 0 0x3000 0 0), .g4Ct (clean 0 0x4000 0 0),
          .g5Ignored (clean 0 0x5000 0 0), .g6Ignored (clean 0 0x6000 0 0), .g7Ignored (clean 0 0x7000 0 0),
          .g8Ignored (clean 0 0x8000 0 0), .g9Ignored (clean 0 0x9000 0 0), .g10Ignored (clean 0 0xA000 0 0),
          .g11Ignored (clean 0 0xB000 0 0), .g12Ignored (clean 0 0xC000 0 0), .g13Ignored (clean 0 0xD000 0 0),
          .g14Ignored (clean 0 0xE000 0 0), .g15Ignored (clean 0 0xF800 0 0)])) = List.replicate 17 true := by decide

theorem test_rowsOf_group0 :
    rowsOf (clean 0 0x0003 0 0) =
      [.g0PsDi (clean 0 0x0003 0 0), .g0Di (clean 0 0x0003 0 0), .common (clean 0 0x0003 0 0)] := by decide

theorem test_rowsOf_group2b :
    rowsOf (clean 0 0x2C1F 0 0) = [.g2bRt (clean 0 0x2C1F 0 0), .common (clean 0 0x2C1F 0 0)] := by decide

/-- K3 of 95_test_vectors.md: B = 0x2413. -/
theorem test_classify_k3 :
    (clean 0 0x2413 0 0).groupType = 2#4 ∧ (clean 0 0x2413 0 0).version = .a ∧ (clean 0 0x2413 0 0).seg2 = 3#2 ∧
      (clean 0 0x2413 0 0).seg4 = 3#4 := by decide

theorem test_tableWord_command : decodeTableWord 16 0x3005 = some (.read 0x05#8) := by decide

theorem test_tableWord_block_b :
    decodeTableWord 16 0x4000 = some (.g4Ct (clean 0 0x4000 0 0)) ∧
    decodeTableWord 16 0x2800 = some (.g2bRt (clean 0 0x2800 0 0)) ∧
    decodeTableWord 16 0xF000 = some (.g15Ignored (clean 0 0xF000 0 0)) := by decide

/-! ### The pseudo-commands: encodings of 95_test_vectors.md, programs P1 to P4 -/

theorem test_asm_ps :
    AsmLine.words (.ps 0x8201 2 0x41 0x44 0) =
      [0x1000#16, 0x8201#16, 0x0002#16, 0x0000#16, 0x4144#16, 0x1000#16, 0x0000#16] := by decide

theorem test_asm_rta :
    AsmLine.words (.rta 0x8201 true 0 0x4E 0x45 0x57 0x20 0) =
      [0x1000#16, 0x8201#16, 0x2010#16, 0x4E45#16, 0x5720#16, 0x1000#16, 0x0000#16] := by decide

theorem test_asm_rtb :
    AsmLine.words (.rtb 0x8201 false 15 0x4F 0x4B 0) =
      [0x1000#16, 0x8201#16, 0x280F#16, 0x8201#16, 0x4F4B#16, 0x1000#16, 0x0000#16] := by decide

theorem test_asm_sl :
    AsmLine.words (.sl 0xD3C2 7 15 13 30 0) =
      [0x1000#16, 0xD3C2#16, 0x1000#16, 0x7000#16, 0x7B5E#16, 0x1000#16, 0x0000#16] := by decide

theorem test_asm_ct :
    AsmLine.words (.ct 0xD3C2 21 0 0x0004) =
      [0x1000#16, 0xD3C2#16, 0x4000#16, 0x0001#16, 0x5000#16, 0x1000#16, 0x0004#16] := by decide

theorem test_asm_nosync_and_registers :
    AsmLine.words .nosync = [0x1000#16, 0, 0, 0, 0, 0, 0] ∧ AsmLine.words (.readReg (.text 31)) = [0x305F#16] ∧
      AsmLine.words (.readReg (.name 3)) = [0x3013#16] ∧ AsmLine.words (.readReg .pin) = [0x3005#16] := by decide

/-! ### The gate: G1 to G9 of 95_test_vectors.md -/

/-- S0, S1 and the two verdicts. -/
def gate (s0 s1 : Word) : Bool × Bool :=
  (usableName .default { clean 0 0 0 0 with s0 := s0, s1 := s1 },
    usableStrict .default { clean 0 0 0 0 with s0 := s0, s1 := s1 })

theorem test_gate_with_sync :
    gate 0x1000 0x0000 = (true, true) ∧ gate 0x1000 0x0004 = (true, false) ∧ gate 0x1000 0x0002 = (true, false) ∧
      gate 0x1000 0x0008 = (true, false) ∧ gate 0x1000 0x0006 = (false, false) ∧ gate 0x1000 0x000F = (false, false) ∧
      gate 0x1000 0xFFF0 = (true, true) := by decide

theorem test_gate_without_sync : gate 0x0000 0x0000 = (false, false) ∧ gate 0xEFFF 0x0000 = (false, false) := by decide

/-- R86: the default fields are S1[3:2] and S1[1:0] under every ERR_W; S1 = 4 gives esum 1. -/
theorem test_default_decode_under_wider_errW :
    esum { Config.default with errW := 3 } { clean 0 0 0 0 with s1 := 0x0004 } = 1 ∧
    esum { Config.default with errW := 3 } { clean 0 0 0 0 with s1 := 0xFFFF } = 6 := by decide

/-- R9 refuses three configurations; R86 and R65 leave out two more: the default decode with counts of one bit, and
buffers shorter than the positions that are written. -/
theorem test_illegal_configurations :
    [{ Config.default with validity := 0 }, { Config.default with nameCharMin := 127 }, { Config.default with errW := 0 },
      { Config.default with errW := 1 }, { Config.default with nameLen := 7 }, { Config.default with textLen := 63 }].all
      (fun c => !c.legal) = true := by decide

/-- R8, R51: NAME_LEN is a parameter, and RESET fills all of a longer buffer. -/
theorem test_longer_name_buffer :
    (after .reset (resetWith fun c => { c with nameLen := 10 })).record.accName = List.replicate 10 0x20#8 ∧
    (after (.g0PsDi (clean 0 0x0003 0 0x4142)) (resetWith fun c => { c with nameLen := 10 })).name.rxName =
      [0x20, 0x20, 0x20, 0x20, 0x20, 0x20, 0x41, 0x42, 0x20, 0x20] := by decide

/-! ### Commands -/

/-- K8 of 95_test_vectors.md. -/
theorem test_update_without_sync :
    after (.update { clean 0x8201 0x0540 0 0 with s0 := 0 }) .reset = State.reset := by decide

/-- N17 of 95_test_vectors.md: the name pair is rejected, the DI flag and the PI fields are written. -/
theorem test_update_rejected_pair :
    (after (.update (clean 0x8201 0x0007 0 0x4120)) .reset).name = State.reset.name ∧
    (after (.update (clean 0x8201 0x0007 0 0x4120)) .reset).record.stereo = true ∧
    (after (.update (clean 0x8201 0x0007 0 0x4120)) .reset).record.country = 8#4 := by decide

/-- C6 of 95_test_vectors.md after the first command of P3. -/
theorem test_reset_clears :
    after .reset (after (.update (clean 0xD3C2 0x1000 0x7000 0x7B5E)) .reset) = State.reset := by decide

/-- C7 of 95_test_vectors.md: FLAGS leaves `clear_screen` set. -/
theorem test_read_flags_leaves_clear_screen :
    (after (.read 0x02) (State.reset.withRecord { State.reset.record with clearScreen := true, ta := true })).response =
      some 0x0002#16 ∧
    (after (.read 0x02) (State.reset.withRecord { State.reset.record with clearScreen := true })).record.clearScreen =
      true := by decide

/-- C7 of 95_test_vectors.md: CLRSCR answers 1 and clears. -/
theorem test_read_clrscr :
    (after (.read 0x03) (State.reset.withRecord { State.reset.record with clearScreen := true })).response =
      some 0x0001#16 ∧
    (after (.read 0x03) (State.reset.withRecord { State.reset.record with clearScreen := true })).record.clearScreen =
      false := by decide

/-- P3 commands 8 to 12 and P1 command 23: register values from the state their programs give. -/
theorem test_register_values :
    regRead { State.reset.record with hours := 20, minutes := 30 } 0x04 = 0x141E#16 ∧
    regRead { State.reset.record with pinDay := 15, pinHour := 13, pinMinute := 30 } 0x05 = 0x7B5E#16 ∧
    regRead { State.reset.record with emergency := true, stereo := true, tp := true } 0x02 = 0x0049#16 ∧
    regRead { State.reset.record with version := .b } 0x01 = 0x0100#16 ∧
    regRead { State.reset.record with accName := name8 0x53 0x4B 0x59 0x52 0x41 0x44 0x49 0x4F } 0x13 = 0x494F#16 ∧
    regRead State.reset.record 0x5F = 0x2020#16 ∧ regRead State.reset.record 0x60 = 0x0000#16 := by decide

/-! ### Group rows -/

/-- N4 of 95_test_vectors.md, second fragment: the candidate is taken before the write. -/
theorem test_g0PsDi_wrap :
    (after (.g0PsDi (clean 0x8201 0x0000 0 0x5241))
      (State.reset.withName { State.reset.name with
        rxName := name8 0x20 0x20 0x44 0x49 0x20 0x20 0x20 0x20, nameLastOff := 1 })).name =
      { rxName := name8 0x52 0x41 0x44 0x49 0x20 0x20 0x20 0x20
        candName := name8 0x20 0x20 0x44 0x49 0x20 0x20 0x20 0x20
        nameCycles := 0
        nameLastOff := 0 } := by decide

/-- N3 and N15 of 95_test_vectors.md: 33 and 126 are accepted; the fourth equal sweep promotes. -/
theorem test_g0PsDi_accepts_and_promotes :
    (after (.g0PsDi (clean 0x8201 0x0003 0 0x217E)) .reset).name.rxName =
      name8 0x20 0x20 0x20 0x20 0x20 0x20 0x21 0x7E ∧
    (after (.g0PsDi (clean 0x8201 0x0000 0 0x534B))
      (State.reset.withName
        { rxName := name8 1 2 3 4 5 6 7 8, candName := name8 1 2 3 4 5 6 7 8, nameCycles := 3, nameLastOff := 3 })).record.accName = name8 1 2 3 4 5 6 7 8 := by decide

/-- X4 and X5 of 95_test_vectors.md. -/
theorem test_g0Di_stereo :
    (after (.g0Di (clean 0x8201 0x0007 0 0x4142)) .reset).record.stereo = true ∧
    (after (.g0Di { clean 0x8201 0x0007 0 0x4142 with s1 := 0x0004 }) .reset).record.stereo = false := by decide

/-- X3 of 95_test_vectors.md: segment 2 decodes nothing. -/
theorem test_g0Di_segment2 : after (.g0Di (clean 0x8201 0x0006 0 0x4142)) .reset = State.reset := by decide

/-- X8 of 95_test_vectors.md. -/
theorem test_g1SlPin_code7 :
    (after (.g1SlPin (clean 0 0x1000 0xF000 0x7B5E)) .reset).record =
      { State.reset.record with emergency := true, pinDay := 15, pinHour := 13, pinMinute := 30 } := by decide

/-- X9 of 95_test_vectors.md. -/
theorem test_g1SlPin_code6 :
    (after (.g1SlPin (clean 0 0x1000 0x6FFF 0xFFFF))
      (State.reset.withRecord { State.reset.record with emergency := true })).record =
      { State.reset.record with emergency := false, pinDay := 31, pinHour := 31, pinMinute := 63 } := by decide

/-- T7 of 95_test_vectors.md. -/
theorem test_g2aRt_last_segment :
    (List.range 64).map (getByte (after (.g2aRt (clean 0 0x200F 0x5758 0x595A)) .reset).text.rxText) =
      List.replicate 60 0x20#8 ++ [0x57#8, 0x58#8, 0x59#8, 0x5A#8] := by decide

/-- T10 and T2 of 95_test_vectors.md: the old buffer is promoted, the toggled A/B flag sets `clear_screen`. -/
theorem test_g2aRt_wrap :
    getByte (after (.g2aRt (clean 0 0x2010 0x4E45 0x5720))
      (State.reset.withText { State.reset.text with textLastOff := 15, textAbValid := true })).record.accText 0 = 0x20#8 ∧
    getByte (after (.g2aRt (clean 0 0x2010 0x4E45 0x5720))
      (State.reset.withText { State.reset.text with textLastOff := 15, textAbValid := true })).text.rxText 0 = 0x4E#8 ∧
    (after (.g2aRt (clean 0 0x2010 0x4E45 0x5720))
      (State.reset.withText { State.reset.text with textLastOff := 15, textAbValid := true })).record.clearScreen =
        true := by decide

/-- T8 of 95_test_vectors.md. -/
theorem test_g2bRt_last_segment :
    (List.range 64).map (getByte (after (.g2bRt (clean 0 0x280F 0x8201 0x2121)) .reset).text.rxText) =
      List.replicate 30 0x20#8 ++ [0x21#8, 0x21#8] ++ List.replicate 32 0x20#8 := by decide

/-- T3 and T4 of 95_test_vectors.md, in version B: the first flag only records; a failed strict gate leaves no trace. -/
theorem test_g2bRt_first_flag_and_gate :
    (after (.g2bRt (clean 0 0x2810 0 0)) .reset).text.textAbLast = true ∧
    (after (.g2bRt (clean 0 0x2810 0 0)) .reset).record.clearScreen = false ∧
    after (.g2bRt { clean 0 0x2810 0 0 with s1 := 0x0004 }) .reset = State.reset := by decide

/-- X13 of 95_test_vectors.md. -/
theorem test_g4Ct_in_range :
    (after (.g4Ct (clean 0 0x4000 0x0001 0x7EC0)) .reset).record.hours = 23#5 ∧
    (after (.g4Ct (clean 0 0x4000 0x0001 0x7EC0)) .reset).record.minutes = 59#6 := by decide

/-- X14 and X15 of 95_test_vectors.md. -/
theorem test_g4Ct_out_of_range :
    after (.g4Ct (clean 0 0x4000 0x0001 0x8000)) .reset = State.reset ∧
    after (.g4Ct (clean 0 0x4000 0x0000 0x0F00)) .reset = State.reset := by decide

/-- X18 of 95_test_vectors.md: an ignored group writes the common fields. -/
theorem test_ignored_group5 :
    (after (.g5Ignored (clean 0xFFFF 0x57FF 0 0)) .reset).record =
      { State.reset.record with
        country := 15, area := 15, ref := 255, tp := true, pty := 31, ta := true, ms := true } := by decide

/-- X19 of 95_test_vectors.md, on every row of R193: PI 0x1234 and nothing of the accumulators. -/
theorem test_ignored_rows_write_pi :
    (ignoredRows (clean 0x1234 0x3000 0 0)).all (fun i =>
      decide (regRead (after i .reset).record 0x00 = 0x1234#16) && decide ((after i .reset).name = State.reset.name) &&
        decide ((after i .reset).text = State.reset.text)) = true := by decide

/-- X17 of 95_test_vectors.md. -/
theorem test_common_pi_tp_pty :
    (after (.common (clean 0x8201 0x0540 0 0)) .reset).record =
      { State.reset.record with country := 8, area := 2, ref := 1, tp := true, pty := 10 } := by decide

/-- T11 and X20 of 95_test_vectors.md: TA and M/S from a group 2 under both values of TA_MS_ALL_GROUPS. -/
theorem test_common_ta_ms :
    (after (.common (clean 0xD3C2 0x2418 0 0)) .reset).record.ta = true ∧
    (after (.common (clean 0xD3C2 0x2418 0 0)) (resetWith fun c => { c with taMsAllGroups := false })).record.ta = false ∧
    (after (.common (clean 0xD3C2 0x2418 0 0)) (resetWith fun c => { c with taMsAllGroups := false })).record.tp = true := by
  decide

/-! ### The step -/

/-- A step takes one whole command and leaves the words after it (R85). -/
theorem test_step_takes_one_command :
    step (State.reset.withPending [0x3010#16, 0x2000#16]) =
      .next ((State.reset.withPending [0x2000#16]).withResponse (some 0x2020#16)) := by rfl

theorem test_step_refuses_illegal : step (State.reset.withPending [0x4000#16]) = .refused .illegalCommand := by rfl

/-- A block-B word of the opcode table runs inside the UPDATE that carries it, from reset. -/
theorem test_withFetchWord_block_b :
    step (State.withFetchWord .reset 16 0x4000) = exec (.update (clean 0 0x4000 0 0)) .reset := by rfl

theorem test_withFetchWord_command : step (State.withFetchWord .reset 16 0x2000) = exec .reset .reset := by rfl

/-! ### Witnesses: a state and operands that meet the hypotheses of each statement, one for each clause -/

/-- Reset, with the first fragment of a name received. -/
def oneFragment : State := after (.update (clean 0x8201 0x0000 0 0x4142)) .reset

/-- Reset, with the fragments 0 and 3 received: the next fragment below 3 wraps. -/
def twoFragments : State := after (.update (clean 0x8201 0x0003 0 0x4748)) oneFragment

/-- A state with `clear_screen` set. -/
def screenSet : State := State.reset.withRecord { State.reset.record with clearScreen := true }

/-- A name accumulator before a wrap: an equal candidate after `k` equal sweeps. -/
def beforeWrap (k : BitVec 8) : State :=
  State.reset.withName
    { rxName := name8 1 2 3 4 5 6 7 8, candName := name8 1 2 3 4 5 6 7 8, nameCycles := k, nameLastOff := 3 }

theorem witness_NothingBeforeResetSurvives :
    oneFragment.cfg = State.reset.cfg ∧ oneFragment.pending = State.reset.pending ∧
      oneFragment.response = State.reset.response ∧ oneFragment ≠ State.reset := by decide

/-- Each address clause at the ends of its range, on a Record with different values everywhere. -/
theorem witness_ReadAnswersTheRegisterMap :
    ([0x00#8, 0x01#8, 0x02#8, 0x03#8, 0x04#8, 0x05#8].map (regRead
        { State.reset.record with
          country := 1, area := 2, ref := 3, version := .b, pty := 4, ms := true, clearScreen := true, hours := 5,
          minutes := 6, pinDay := 7, pinHour := 8, pinMinute := 9 }) =
      [0x1203#16, 0x0104#16, 0x0004#16, 0x0001#16, 0x0506#16, 0x3A09#16]) ∧
    ([0x10#8, 0x13#8].map (regRead { State.reset.record with accName := name8 1 2 3 4 5 6 7 8 }) =
      [0x0102#16, 0x0708#16]) ∧
    ([0x40#8, 0x5F#8].map (regRead { State.reset.record with accText := (List.range 64).map (BitVec.ofNat 8) }) =
      [0x0001#16, 0x3E3F#16]) ∧
    ([0x06#8, 0x0F#8, 0x14#8, 0x3F#8, 0x60#8, 0xFF#8].map (regRead screenSet.record) = List.replicate 6 0#16) := by
  decide

theorem witness_ClearScreenIsConsumedByItsRead :
    (0x02#8 ≠ 0x03#8 ∧ 0x04#8 ≠ 0x03#8) ∧ screenSet.record.clearScreen = true := by decide

theorem witness_WorkingStateIsNotReadable :
    (beforeWrap 3).record = State.reset.record ∧ (beforeWrap 3).name ≠ State.reset.name := by decide

/-- A STATUS_DECODE for ERR_W = 1 that a model supplies: a count is 1 unless its two bits of S1 are 0. -/
def oneBitDecode : StatusDecode :=
  .given (.field .s0 12 1) (.ifEq (.field .s1 2 2) (.lit 0) (.lit 0) (.lit 1))
    (.ifEq (.field .s1 0 2) (.lit 0) (.lit 0) (.lit 1))

/-- The default layout, also under ERR_W = 3; counts 1 + 1 at NAME_ERR_MAX, 0 + 0 at STRICT_ERR_MAX, 1 + 2 above both. -/
theorem witness_GateVerdictsFromTheStatusWords :
    Config.default.statusDecode = .rda5807m ∧ { Config.default with errW := 3 }.statusDecode = .rda5807m ∧
      Config.default.strictErrMax ≤ Config.default.nameErrMax ∧ usableStrict .default (clean 0 0 0 0) = true ∧
      gate 0x1000 0x0005 = (true, false) ∧ gate 0x1000 0x0006 = (false, false) := by decide

/-- Legal configurations whose counts reach their bound, with two bits and with one. -/
theorem witness_ErrorCountsAreBounded :
    (Config.default.legal = true ∧ esum .default { clean 0 0 0 0 with s1 := 0x000F } = 2 * (2 ^ 2 - 1)) ∧
    ({ Config.default with errW := 1, statusDecode := oneBitDecode }.legal = true ∧
      esum { Config.default with errW := 1, statusDecode := oneBitDecode } { clean 0 0 0 0 with s1 := 0x000F } =
        2 * (2 ^ 1 - 1)) := by decide

theorem witness_BlockSetWithoutSyncChangesNothing :
    syncOf oneFragment.cfg { clean 0x8201 0x0540 0 0x4142 with s0 := 0xEFFF } = false ∧
      (Instr.g0PsDi { clean 0x8201 0x0540 0 0x4142 with s0 := 0xEFFF }).armSet =
        some { clean 0x8201 0x0540 0 0x4142 with s0 := 0xEFFF } := by decide

/-- Both clauses: the row G0_DI under the name verdict alone, and G0_PS_DI without either verdict. -/
theorem witness_UnusableBlockSetsLeaveNoTrace :
    (usableStrict oneFragment.cfg { clean 0x8201 0x0007 0 0x4142 with s1 := 0x0004 } = false ∧
      Instr.g0Di (clean 0x8201 0x0007 0 0x4142) ≠ .g0PsDi (clean 0x8201 0x0007 0 0x4142)) ∧
    (usableStrict oneFragment.cfg { clean 0x8201 0x0007 0 0x4142 with s1 := 0x0006 } = false ∧
      usableName oneFragment.cfg { clean 0x8201 0x0007 0 0x4142 with s1 := 0x0006 } = false) := by decide

/-- Without either verdict, and, where NAME_ERR_MAX lies below STRICT_ERR_MAX, with the strict one alone. -/
theorem witness_NameStepNeedsTheNameVerdict :
    usableName .default { clean 0x8201 0x0007 0 0x4142 with s1 := 0x0006 } = false ∧
    (usableName { Config.default with nameErrMax := 0, strictErrMax := 2 }
        { clean 0x8201 0x0007 0 0x4142 with s1 := 0x0004 } = false ∧
      usableStrict { Config.default with nameErrMax := 0, strictErrMax := 2 }
        { clean 0x8201 0x0007 0 0x4142 with s1 := 0x0004 } = true) := by decide

theorem witness_NameVerdictAloneReachesOnlyTheName :
    (usableName .default { clean 0x8201 0x0000 0 0x4142 with s1 := 0x0005 } = true ∧
      usableStrict .default { clean 0x8201 0x0000 0 0x4142 with s1 := 0x0005 } = false ∧
      (0x0000#16).extractLsb' 12 4 = 0#4) ∧
    (usableName .default { clean 0x8201 0x1000 0 0 with s1 := 0x0001 } = true ∧
      usableStrict .default { clean 0x8201 0x1000 0 0 with s1 := 0x0001 } = false ∧
      (0x1000#16).extractLsb' 12 4 ≠ 0#4) := by decide

/-- Each of the four ways to be outside, one beyond the range; both values of PRINTABLE_FAIL_SKIPS_ALL. -/
theorem witness_RejectedNamePairChangesNoName :
    ((0x0003#16).extractLsb' 12 4 = 0#4) ∧
    (((0x2041#16).extractLsb' 8 8).toNat < Config.default.nameCharMin ∧
      Config.default.nameCharMax < ((0x7F41#16).extractLsb' 8 8).toNat ∧
      ((0x4120#16).extractLsb' 0 8).toNat < Config.default.nameCharMin ∧
      Config.default.nameCharMax < ((0x417F#16).extractLsb' 0 8).toNat) ∧
    ((resetWith fun c => { c with printableFailSkipsAll := true }).cfg.printableFailSkipsAll = true ∧
      usableName (resetWith fun c => { c with printableFailSkipsAll := true }).cfg (clean 0x8201 0x0003 0 0x4120) = true) ∧
    State.reset.cfg.printableFailSkipsAll = false := by decide

/-- The default state is sized. -/
theorem reset_sized : State.reset.Sized := by constructor <;> decide

/-- The states of the wraps are sized. -/
theorem beforeWrap_sized (k : BitVec 8) : (beforeWrap k).Sized := ⟨rfl, rfl, rfl, rfl, rfl⟩

/-- The characters 33 and 126. No wrap: segment 0 after reset and segment 3 after segment 3. The three outcomes of a wrap:
a changed sweep, the third equal one and the fourth. -/
theorem witness_NameFragmentIsValidatedAndWritten :
    (State.reset.Sized ∧ twoFragments.Sized ∧ (beforeWrap 2).Sized ∧ (beforeWrap 3).Sized) ∧
    (State.reset.cfg.legal = true ∧ usableName State.reset.cfg (clean 0x8201 0x0000 0 0x217E) = true ∧
      State.reset.cfg.nameCharMin = ((0x217E#16).extractLsb' 8 8).toNat ∧
      ((0x217E#16).extractLsb' 0 8).toNat = State.reset.cfg.nameCharMax ∧
      State.reset.name.nameLastOff.toNat ≤ ((0x0000#16).extractLsb' 0 2).toNat) ∧
    (usableName twoFragments.cfg (clean 0x8201 0x0003 0 0x7E21) = true ∧
      twoFragments.name.nameLastOff.toNat = ((0x0003#16).extractLsb' 0 2).toNat) ∧
    (((0x0002#16).extractLsb' 0 2).toNat < twoFragments.name.nameLastOff.toNat ∧
      twoFragments.name.rxName ≠ twoFragments.name.candName) ∧
    (((0x0002#16).extractLsb' 0 2).toNat < (beforeWrap 2).name.nameLastOff.toNat ∧
      (beforeWrap 2).name.rxName = (beforeWrap 2).name.candName ∧
      (beforeWrap 2).name.nameCycles.toNat + 1 < (beforeWrap 2).cfg.validity) ∧
    (((0x0002#16).extractLsb' 0 2).toNat < (beforeWrap 3).name.nameLastOff.toNat ∧
      (beforeWrap 3).name.rxName = (beforeWrap 3).name.candName ∧
      (beforeWrap 3).cfg.validity = (beforeWrap 3).name.nameCycles.toNat + 1) :=
  ⟨⟨reset_sized, by constructor <;> decide, beforeWrap_sized 2, beforeWrap_sized 3⟩, by decide⟩

/-- The four segment indexes. -/
theorem witness_DiFlagFollowsTheSegmentIndex :
    ((List.range 4).all fun k =>
      usableStrict State.reset.cfg (clean 0x8201 (BitVec.ofNat 16 k) 0 0x4142) &&
        !tickSkipped State.reset.cfg (clean 0x8201 (BitVec.ofNat 16 k) 0 0x4142) &&
        decide (((BitVec.ofNat 16 k).extractLsb' 0 2).toNat = k)) = true := by decide

/-- The code that sets `emergency` and the one that does not. -/
theorem witness_SlowLabelSetsEmergencyAndPin :
    usableStrict State.reset.cfg (clean 0xD3C2 0x1000 0x7000 0x7B5E) = true ∧
      (0x7000#16).toNat / 4096 % 8 = State.reset.cfg.emergencyCode.toNat ∧
      (0x6FFF#16).toNat / 4096 % 8 ≠ State.reset.cfg.emergencyCode.toNat := by decide

/-- 23:59, hour 24 and minute 60. -/
theorem witness_ClockTimeIsStoredInRange :
    (usableStrict State.reset.cfg (clean 0 0x4000 0x0001 0x7EC0) = true ∧
      (0x0001#16).toNat % 2 * 16 + (0x7EC0#16).toNat / 4096 = 23 ∧ (0x7EC0#16).toNat / 64 % 64 = 59) ∧
    (usableStrict State.reset.cfg (clean 0 0x4000 0x0001 0x8000) = true ∧
      (0x0001#16).toNat % 2 * 16 + (0x8000#16).toNat / 4096 = 24) ∧
    (usableStrict State.reset.cfg (clean 0 0x4000 0x0000 0x0F00) = true ∧ (0x0F00#16).toNat / 64 % 64 = 60) := by decide

theorem witness_TextFragmentOfEachVersion :
    State.reset.Sized ∧ State.reset.cfg.legal = true ∧
      usableStrict State.reset.cfg (clean 0xD3C2 0x200F 0x5758 0x595A) = true ∧
      usableStrict State.reset.cfg (clean 0xD3C2 0x280F 0xD3C2 0x2121) = true :=
  ⟨reset_sized, by decide⟩

/-- TA_MS_ALL_GROUPS true; false in group 0; false in another group. -/
theorem witness_CommonFieldsFollowBlocksAAndB :
    (usableStrict State.reset.cfg (clean 0xD3C2 0x2418 0 0) = true ∧
      tickSkipped State.reset.cfg (clean 0xD3C2 0x2418 0 0) = false ∧ State.reset.cfg.taMsAllGroups = true) ∧
    ((resetWith fun c => { c with taMsAllGroups := false }).cfg.taMsAllGroups = false ∧
      usableStrict (resetWith fun c => { c with taMsAllGroups := false }).cfg (clean 0xD3C2 0x0418 0 0x4142) = true ∧
      tickSkipped (resetWith fun c => { c with taMsAllGroups := false }).cfg (clean 0xD3C2 0x0418 0 0x4142) = false ∧
      (0x0418#16).extractLsb' 12 4 = 0#4 ∧ (0x2418#16).extractLsb' 12 4 ≠ 0#4) := by decide

/-- The first and the last ignored group type, usable and not. -/
theorem witness_IgnoredGroupsRunOnlyTheCommonFields :
    (Instr.g3Ignored (clean 0x1234 0x3000 0 0) ∈ ignoredRows (clean 0x1234 0x3000 0 0) ∧
      (Instr.g3Ignored (clean 0x1234 0x3000 0 0)).wf = true) ∧
    (Instr.g15Ignored { clean 0x1234 0xFFFF 0 0 with s1 := 1 } ∈ ignoredRows { clean 0x1234 0xFFFF 0 0 with s1 := 1 } ∧
      (Instr.g15Ignored { clean 0x1234 0xFFFF 0 0 with s1 := 1 }).wf = true ∧
      usableStrict .default { clean 0x1234 0xFFFF 0 0 with s1 := 1 } = false) := by decide

theorem witness_ArmOrderDoesNotMatter :
    Instr.g0PsDi (clean 0x8201 0x0007 0 0x4142) ∈ rowsOf (clean 0x8201 0x0007 0 0x4142) ∧
      Instr.common (clean 0x8201 0x0007 0 0x4142) ∈ rowsOf (clean 0x8201 0x0007 0 0x4142) := by decide

/-- An UPDATE that changes the state. -/
theorem witness_RepeatedUpdateChangesNothing :
    exec (.update (clean 0x8201 0x0000 0 0x4142)) .reset = .next oneFragment ∧ oneFragment ≠ .reset :=
  ⟨by rfl, by decide⟩

theorem witness_UpdateNeverClearsClearScreen : screenSet.record.clearScreen = true := by decide

/-- A text accumulator before a wrap: segment 15 seen last, flag 0 seen last. -/
def beforeTextWrap : State :=
  State.reset.withText
    { rxText := List.replicate 64 0x41#8, textLastOff := 15, textAbLast := false, textAbValid := true }

/-- The fourth equal sweep of a name, and a wrap of a text. -/
theorem witness_AcceptedBuffersOnlyByPromotion :
    (exec (.g0PsDi (clean 0x8201 0x0000 0 0x4142)) (beforeWrap 3) =
        .next (after (.g0PsDi (clean 0x8201 0x0000 0 0x4142)) (beforeWrap 3)) ∧
      (after (.g0PsDi (clean 0x8201 0x0000 0 0x4142)) (beforeWrap 3)).record.accName ≠ (beforeWrap 3).record.accName) ∧
    (exec (.g2bRt (clean 0 0x280E 0 0x4142)) beforeTextWrap =
        .next (after (.g2bRt (clean 0 0x280E 0 0x4142)) beforeTextWrap) ∧
      (after (.g2bRt (clean 0 0x280E 0 0x4142)) beforeTextWrap).record.accText ≠ beforeTextWrap.record.accText) :=
  ⟨⟨by rfl, by decide⟩, by rfl, by decide⟩

theorem witness_InstructionsKeepParametersAndPendingWords :
    exec (.g2bRt (clean 0 0x280E 0 0x4142)) beforeTextWrap =
      .next (after (.g2bRt (clean 0 0x280E 0 0x4142)) beforeTextWrap) ∧
    ∀ addr : BitVec 8, Instr.g2bRt (clean 0 0x280E 0 0x4142) ≠ .read addr :=
  ⟨by rfl, fun _ => by simp⟩

/-- Setting by a toggle, clearing by READ of CLRSCR and by RESET. -/
theorem witness_ClearScreenWriters :
    (beforeTextWrap.record.clearScreen = false ∧
      exec (.g2aRt (clean 0 0x201F 0 0)) beforeTextWrap = .next (after (.g2aRt (clean 0 0x201F 0 0)) beforeTextWrap) ∧
      (after (.g2aRt (clean 0 0x201F 0 0)) beforeTextWrap).record.clearScreen = true) ∧
    (screenSet.record.clearScreen = true ∧ exec (.read 0x03#8) screenSet = .next (after (.read 0x03#8) screenSet) ∧
      (after (.read 0x03#8) screenSet).record.clearScreen = false) ∧
    (exec .reset screenSet = .next (after .reset screenSet) ∧ (after .reset screenSet).record.clearScreen = false) :=
  ⟨⟨by decide, by rfl, by decide⟩, ⟨by decide, by rfl, by decide⟩, by rfl, by decide⟩

/-- One UPDATE for each clause. -/
theorem witness_ElementsChangeOnlyByTheirWriters :
    (after (.update (clean 0 0x0000 0 0x4142)) .reset).name ≠ State.reset.name ∧
    (after (.update (clean 0 0x2001 0x4142 0x4344)) .reset).text ≠ State.reset.text ∧
    (after (.update (clean 0 0x4000 0x0001 0x7EC0)) .reset).record.hours ≠ State.reset.record.hours ∧
    (after (.update (clean 0 0x1000 0x7000 0)) .reset).record.emergency ≠ State.reset.record.emergency ∧
    (after (.update (clean 0 0x0004 0 0x4142)) .reset).record.dynPty ≠ State.reset.record.dynPty ∧
    (after (.update (clean 0x8201 0x5000 0 0)) .reset).record.country ≠ State.reset.record.country := by decide

/-- A state in the middle of a sweep meets the invariants, and its step wraps the name. -/
theorem witness_StepKeepsTheInvariants :
    (twoFragments.withPending (encode (.update (clean 0x8201 0x0000 0 0x4142)))).Inv ∧
    step (twoFragments.withPending (encode (.update (clean 0x8201 0x0000 0 0x4142)))) =
      .next (after (.update (clean 0x8201 0x0000 0 0x4142)) twoFragments) := by
  refine ⟨⟨?_, ⟨?_, ?_, ?_, ?_, ?_⟩, ?_, ?_, ?_, ?_, ?_, ?_, ?_, ?_, ?_⟩, by rfl⟩ <;> decide

/-- A legal configuration at every bound: VALIDITY 255 and 1, one accepted character, ERR_W 1 with counts of one bit. -/
theorem witness_ResetMeetsTheInvariants :
    Config.legal { Config.default with
      validity := 255, nameCharMin := 65, nameCharMax := 65, errW := 1, statusDecode := oneBitDecode } = true ∧
      Config.legal { Config.default with validity := 1 } = true := by decide

theorem witness_StepRunsTheDecodedCommand :
    (State.reset.withPending [0x3003#16, 0x2000#16]).cfg.legal = true ∧
      decode (State.reset.withPending [0x3003#16, 0x2000#16]).pending = .ok (.read 0x03#8, [0x2000#16]) := by
  refine ⟨by decide, by rfl⟩

theorem witness_StepPerformsOneWholeCommand :
    State.reset.cfg.legal = true ∧ (Instr.update (clean 1 2 3 4)).isCommand = true ∧
      (State.reset.withPending (encode (.update (clean 1 2 3 4)) ++ [0x2000#16])).pending =
        encode (.update (clean 1 2 3 4)) ++ [0x2000#16] ∧ (Instr.read 0xFF#8).isCommand = true := by decide

/-- No word at all, an UPDATE word alone and one with five payload words. -/
theorem witness_StepWithoutAWholeCommand :
    State.reset.cfg.legal = true ∧ State.reset.pending = [] ∧
      (State.reset.withPending [0x1000#16]).pending = 0x1000#16 :: [] ∧
      (State.reset.withPending [0x1000#16, 1, 2, 3, 4, 5]).pending = 0x1000#16 :: [1, 2, 3, 4, 5] ∧
      [1#16, 2, 3, 4, 5].length < 6 := by decide

/-- One illegal configuration for each of the three grounds, and a step that answers a next state. -/
theorem witness_StepKeepsParametersAndNeverFaults :
    (resetWith fun c => { c with validity := 0 }).cfg.validity = 0 ∧
      (resetWith fun c => { c with nameCharMin := 127 }).cfg.nameCharMax <
        (resetWith fun c => { c with nameCharMin := 127 }).cfg.nameCharMin ∧
      (resetWith fun c => { c with errW := 0 }).cfg.errW = 0 ∧ step .reset = .next .reset :=
  ⟨by decide, by decide, by decide, by rfl⟩

/-- The first illegal `op`, an `rsv` bit, an `addr` bit outside READ, and a legal word. -/
theorem witness_IllegalCommandWordsAreRefused :
    State.reset.cfg.legal = true ∧ (State.reset.withPending [0x4000#16]).pending = [0x4000#16] ∧
      3 < (0x4000#16).toNat / 4096 ∧ (0x3100#16).toNat / 256 % 16 ≠ 0 ∧
      ((0x2001#16).toNat / 4096 ≠ 3 ∧ (0x2001#16).toNat % 256 ≠ 0) ∧
      ¬(3 < (0x30FF#16).toNat / 4096 ∨ (0x30FF#16).toNat / 256 % 16 ≠ 0 ∨
        ((0x30FF#16).toNat / 4096 ≠ 3 ∧ (0x30FF#16).toNat % 256 ≠ 0)) := by decide

theorem witness_DecodeOfEncodeIsTheCommand :
    ([Instr.nop, .update (clean 1 2 3 4), .reset, .read 0xFF#8].all Instr.isCommand) = true := by decide

theorem witness_DecodedWordsAreTheEncoding :
    decode [0x1000#16, 1, 2, 3, 4, 0x1000#16, 0, 0x3003#16] = .ok (.update (clean 1 2 3 4), [0x3003#16]) ∧
      decode [0x3003#16] = .ok (.read 0x03#8, []) := ⟨by rfl, by rfl⟩

/-- Both clauses, for a group with two rows and for the last word of version A of group 2. -/
theorem witness_RowsOfEncodeHoldTheRow :
    ((Instr.g0Di (clean 0 0x0FFF 0 0)).armSet = some (clean 0 0x0FFF 0 0) ∧ (Instr.g0Di (clean 0 0x0FFF 0 0)).wf = true) ∧
    ((Instr.g2aRt (clean 0 0x27FF 0 0)).armSet = some (clean 0 0x27FF 0 0) ∧
      (Instr.g2aRt (clean 0 0x27FF 0 0)).wf = true) ∧
    Instr.g2aRt (clean 0 0x27FF 0 0) ∈ rowsOf (clean 0 0x27FF 0 0) := by decide

/-- The name ABCDEFGH. -/
def letters : List Byte := name8 0x41 0x42 0x43 0x44 0x45 0x46 0x47 0x48

/-- The fragments of ABCDEFGH in order, for every `k`. -/
def letterFragment (k : Nat) : RawBlockSet :=
  clean 0x8201 (BitVec.ofNat 16 (k % 4)) 0 (pairAt letters (2 * (k % 4)))

/-- A legal VALIDITY, a name of NAME_LEN characters, a sentinel that is no accepted character, and a fragment for every place of
the sweeps. -/
theorem witness_NameIsAcceptedAfterValiditySweeps :
    Config.default.legal = true ∧ CarriableName .default letters ∧ charAccepted .default Config.default.fill = false ∧
      ∀ k, k ≤ 4 * (Config.default.validity + 1) → CarriesName .default letters k (letterFragment k) := by
  refine ⟨by decide, ⟨rfl, fun i h h8 => by simp only [Config.default] at h8; omega⟩, by decide, fun k _ => ?_⟩
  have h : k % 4 < 4 := Nat.mod_lt _ (by decide)
  constructor <;> simp only [letterFragment] <;> generalize k % 4 = m at h <;> revert m <;> decide

/-- The version-A fragments of a text in order. -/
def textFragmentA (k : Nat) : RawBlockSet := clean 0x8201 (BitVec.ofNat 16 (0x2000 + k)) 0x4142 0x4344

/-- The version-B fragments of a text in order. -/
def textFragmentB (k : Nat) : RawBlockSet := clean 0x8201 (BitVec.ofNat 16 (0x2800 + k)) 0x8201 0x4344

/-- Sixteen fragments, and a last one of the other version at each end of the range of `j`. -/
theorem witness_TextSweepVersionAIsAccepted :
    (State.reset.cfg.legal = true ∧ State.reset.Sized) ∧ (∀ k, k < 16 → CarriesText State.reset.cfg .a k (textFragmentA k)) ∧
      CarriesText State.reset.cfg .a 0 (textFragmentA 0) ∧ CarriesText State.reset.cfg .b 14 (textFragmentB 14) := by
  refine ⟨⟨by decide, reset_sized⟩, fun k h => ?_, ⟨by decide, by decide, by decide, by decide⟩, ⟨by decide, by decide, by decide, by decide⟩⟩
  constructor <;> revert k <;> decide

theorem witness_TextSweepVersionBIsAccepted :
    (State.reset.cfg.legal = true ∧ State.reset.Sized) ∧ (∀ k, k < 16 → CarriesText State.reset.cfg .b k (textFragmentB k)) ∧
      CarriesText State.reset.cfg .b 0 (textFragmentB 0) ∧ CarriesText State.reset.cfg .a 14 (textFragmentA 14) := by
  refine ⟨⟨by decide, reset_sized⟩, fun k h => ?_, ⟨by decide, by decide, by decide, by decide⟩, ⟨by decide, by decide, by decide, by decide⟩⟩
  constructor <;> revert k <;> decide

/-- Functions as R86 asks: SYNC_OF from S0[0], counts 0 or 1 from whole words. -/
theorem witness_EveryStatusDecodeCanBeSupplied :
    Config.default.legal = true ∧
      (∀ s0 s1 : Word, (if s0 = s1 then 1 else 0) < 2 ^ Config.default.errW) ∧
      (∀ s0 _ : Word, (if s0 = 0x1234#16 then 3 else 0) < 2 ^ Config.default.errW) := by
  refine ⟨by decide, fun s0 s1 => ?_, fun s0 s1 => ?_⟩ <;> split <;> decide

end Sys2Proof.Tests
end

section
/-! PROOFS. The parameters, the words pending and the response: what an instruction and a step keep of them. -/

namespace Sys2Proof.Machine

variable {s t : State}

/-! ### What keeps the parameters, the words pending and the response -/

theorem unlessSkipped_samePort (bs : RawBlockSet) {f : State → State} (h : ∀ s, SamePort s (f s)) :
    SamePort s (unlessSkipped bs f s) := by
  unfold unlessSkipped; split
  · exact .rfl
  · exact h s

theorem groupZeroArms_samePort (bs : RawBlockSet) (s : State) :
    SamePort s (whenStrict bs (diStep bs) (whenName bs (nameStep bs) s)) :=
  (whenName_samePort bs s (nameStep_samePort bs)).trans (whenStrict_samePort bs _ (diStep_samePort bs))

theorem ignoredGroup_samePort (bs : RawBlockSet) : SamePort s (ignoredGroup bs s) :=
  whenStrict_samePort bs s (commonStep_samePort bs)

/-- A READ keeps the parameters and the words pending; it writes the response (R216). -/
theorem readRegister_cfg_pending (addr : BitVec 8) (s : State) :
    (readRegister addr s).cfg = s.cfg ∧ (readRegister addr s).pending = s.pending := by
  unfold readRegister; split <;> exact ⟨rfl, rfl⟩

/-- A READ ends in the state that `readRegister` gives (R216). -/
theorem exec_read_eq_next {addr : BitVec 8} (h : exec (.read addr) s = .next t) : readRegister addr s = t :=
  Host.Outcome.next.inj h

/-- Every instruction but READ keeps the parameters, the words pending and the response. -/
theorem exec_samePort {i : Instr} (h : exec i s = .next t) (hread : ∀ addr, i ≠ .read addr) : SamePort s t := by
  cases i with
  | read addr => exact absurd rfl (hread addr)
  | nop => cases h; exact .rfl
  | update bs => cases h; exact updateBlock_samePort bs s
  | reset => cases h; exact resetBlock_samePort s
  | g0PsDi bs => cases h; exact unlessSkipped_samePort bs (groupZeroArms_samePort bs)
  | g0Di bs => cases h; exact unlessSkipped_samePort bs fun s => whenStrict_samePort bs s (diStep_samePort bs)
  | g1SlPin bs => cases h; exact whenStrict_samePort bs s (slowLabelStep_samePort bs)
  | g2aRt bs => cases h; exact whenStrict_samePort bs s fun s => textStep_samePort bs s .a
  | g2bRt bs => cases h; exact whenStrict_samePort bs s fun s => textStep_samePort bs s .b
  | g4Ct bs => cases h; exact whenStrict_samePort bs s (clockStep_samePort bs)
  | common bs => cases h; exact unlessSkipped_samePort bs fun s => whenStrict_samePort bs s (commonStep_samePort bs)
  | g3Ignored bs | g5Ignored bs | g6Ignored bs | g7Ignored bs | g8Ignored bs | g9Ignored bs | g10Ignored bs
  | g11Ignored bs | g12Ignored bs | g13Ignored bs | g14Ignored bs | g15Ignored bs =>
    cases h; exact ignoredGroup_samePort bs

/-- No instruction changes a parameter or the words pending (R9). -/
theorem exec_keeps_cfg_pending {i : Instr} (h : exec i s = .next t) : t.cfg = s.cfg ∧ t.pending = s.pending := by
  by_cases hread : ∃ addr, i = .read addr
  · obtain ⟨addr, rfl⟩ := hread
    rw [← exec_read_eq_next h]
    exact readRegister_cfg_pending addr s
  · obtain ⟨hcfg, hpending, -⟩ := exec_samePort h fun addr e => hread ⟨addr, e⟩
    exact ⟨hcfg, hpending⟩

/-! ### What a step can do -/

/-- What a step can answer: a refusal with its reason, waiting, or the outcome of one instruction run from the state
that has taken its words and dropped the earlier response (R9, R83, R85, R210, R263). -/
theorem step_cases (s : State) :
    (s.cfg.legal = false ∧ step s = .refused .illegalConfig) ∨
    (s.cfg.legal = true ∧ decode s.pending = .error .noCommand ∧ step s = .next s) ∨
    (s.cfg.legal = true ∧ decode s.pending = .error .illegalCommand ∧ step s = .refused .illegalCommand) ∨
    (s.cfg.legal = true ∧ decode s.pending = .error .incompleteCommand ∧ step s = .refused .incompleteCommand) ∨
    (∃ i rest, s.cfg.legal = true ∧ decode s.pending = .ok (i, rest) ∧
      step s = exec i ((s.withPending rest).withResponse none)) := by
  unfold step
  rcases fetch_cases s with ⟨hl, h⟩ | ⟨hl, hd, h⟩ | ⟨hl, hd, h⟩ | ⟨hl, hd, h⟩ | ⟨i, rest, hl, hd, h⟩ <;> rw [h]
  · exact .inl ⟨hl, rfl⟩
  · exact .inr (.inl ⟨hl, hd, rfl⟩)
  · exact .inr (.inr (.inl ⟨hl, hd, rfl⟩))
  · exact .inr (.inr (.inr (.inl ⟨hl, hd, rfl⟩)))
  · exact .inr (.inr (.inr (.inr ⟨i, rest, hl, hd, rfl⟩)))

/-- No step changes a parameter (R9). -/
theorem step_keeps_cfg (h : step s = .next t) : t.cfg = s.cfg := by
  rcases step_cases s with ⟨-, e⟩ | ⟨-, -, e⟩ | ⟨-, -, e⟩ | ⟨-, -, e⟩ | ⟨i, rest, -, -, e⟩ <;> rw [e] at h
  · cases h
  · cases h; rfl
  · cases h
  · cases h
  · exact (exec_keeps_cfg_pending h).1

/-- Every step in an illegal configuration is refused (log 5). -/
theorem step_of_illegal_config (h : s.cfg.legal = false) : step s = .refused .illegalConfig := by
  rcases step_cases s with ⟨-, e⟩ | ⟨hl, -⟩ | ⟨hl, -⟩ | ⟨hl, -⟩ | ⟨_, _, hl, -⟩
  · exact e
  all_goals simp [h] at hl

/-- The three configurations that R9 forbids are illegal. -/
theorem legal_eq_false_of_forbidden {cfg : Config}
    (h : cfg.validity = 0 ∨ cfg.nameCharMax < cfg.nameCharMin ∨ cfg.errW = 0) : cfg.legal = false := by
  rw [← Bool.not_eq_true, legal_iff]
  rintro ⟨hvalidity, -, hchars, herrW, -⟩
  omega

/-! ### The obligations -/

/-- Settles O27, from what READ keeps and what every other instruction keeps. -/
theorem instructionsKeepParametersAndPendingWords : Obligations.InstructionsKeepParametersAndPendingWords := by
  intro i s t h
  obtain ⟨hcfg, hpending⟩ := exec_keeps_cfg_pending h
  refine ⟨hcfg, hpending, fun hread => ?_⟩
  obtain ⟨-, -, hresponse⟩ := exec_samePort h hread
  exact hresponse

/-- Settles O36: there is no reason to fault with, the step keeps the parameters as `exec` does, and the configurations
of R9 are illegal. -/
theorem stepKeepsParametersAndNeverFaults : Obligations.StepKeepsParametersAndNeverFaults := by
  intro s
  refine ⟨fun r => ?_, fun t => step_keeps_cfg, fun h => ?_⟩
  · cases r
  · exact step_of_illegal_config (legal_eq_false_of_forbidden h)

end Sys2Proof.Machine
end

section
/-! PROOFS. What an instruction can do, said once: the arms it runs, in order, each under its verdict. -/

namespace Sys2Proof.Machine

/-! ### Which instruction runs which arm on a block set (R95, R212) -/

/-- `i` runs NAME_STEP on `bs`. -/
def RunsName (i : Instr) (bs : RawBlockSet) : Prop := (i = .update bs ∧ bs.groupType = 0#4) ∨ i = .g0PsDi bs

/-- `i` runs G0_DI on `bs`. -/
def RunsDi (i : Instr) (bs : RawBlockSet) : Prop :=
  (i = .update bs ∧ bs.groupType = 0#4) ∨ i = .g0PsDi bs ∨ i = .g0Di bs

/-- `i` runs the group-1 arm on `bs`. -/
def RunsSlowLabel (i : Instr) (bs : RawBlockSet) : Prop := (i = .update bs ∧ bs.groupType = 1#4) ∨ i = .g1SlPin bs

/-- `i` runs TEXT_STEP on `bs`. -/
def RunsText (i : Instr) (bs : RawBlockSet) : Prop :=
  (i = .update bs ∧ bs.groupType = 2#4) ∨ i = .g2aRt bs ∨ i = .g2bRt bs

/-- `i` runs the group-4 arm on `bs`. -/
def RunsClock (i : Instr) (bs : RawBlockSet) : Prop := (i = .update bs ∧ bs.groupType = 4#4) ∨ i = .g4Ct bs

/-- `i` runs COMMON on `bs`. -/
def RunsCommon (i : Instr) (bs : RawBlockSet) : Prop := i = .update bs ∨ i = .common bs ∨ i ∈ ignoredRows bs

/-! ### The effect of an instruction -/

/-- `Effect i s t`: from `s` the instruction `i` can reach `t` by arms that do something. READ, RESET and the arms of one
group start from `s` itself; G0_DI and COMMON follow what ran before them. The verdicts are those of `s`. -/
inductive Effect (i : Instr) (s : State) : State → Prop where
  /-- Nothing has run. -/
  | start : Effect i s s
  /-- READ (R216). -/
  | read {addr : BitVec 8} (runs : i = .read addr) : Effect i s (readRegister addr s)
  /-- RESET (R214). -/
  | reset (runs : i = .reset) : Effect i s (resetBlock s)
  /-- NAME_STEP with an accepted pair (R140, R141). -/
  | name {bs : RawBlockSet} (runs : RunsName i bs) (usable : usableName s.cfg bs = true)
      (accepted : pairAccepted s.cfg bs.d = true) : Effect i s (nameStep bs s)
  /-- The group-1 arm (R182). -/
  | slowLabel {bs : RawBlockSet} (runs : RunsSlowLabel i bs) (usable : usableStrict s.cfg bs = true) :
      Effect i s (slowLabelStep bs s)
  /-- TEXT_STEP of one of the versions (R160). -/
  | text {bs : RawBlockSet} {ver : Version} (runs : RunsText i bs) (usable : usableStrict s.cfg bs = true) :
      Effect i s (textStep ver bs s)
  /-- The group-4 arm with a time in range (R185, R186). -/
  | clock {bs : RawBlockSet} (runs : RunsClock i bs) (usable : usableStrict s.cfg bs = true)
      (inRange : timeInRange bs = true) : Effect i s (clockStep bs s)
  /-- G0_DI (R180). -/
  | di {bs : RawBlockSet} {u : State} (before : Effect i s u) (runs : RunsDi i bs)
      (usable : usableStrict s.cfg bs = true) : Effect i s (diStep bs u)
  /-- COMMON (R190 to R192). -/
  | common {bs : RawBlockSet} {u : State} (before : Effect i s u) (runs : RunsCommon i bs)
      (usable : usableStrict s.cfg bs = true) : Effect i s (commonStep bs u)

section
variable {i : Instr} {bs : RawBlockSet} {s t u : State}

/-- The strict guard skips the arm, or runs it on a block set that the verdict of `s` accepts. -/
theorem Effect.guardStrict {f : State → State} (before : Effect i s u) (port : SamePort s u)
    (run : usableStrict s.cfg bs = true → Effect i s (f u)) : Effect i s (whenStrict bs f u) := by
  obtain ⟨hcfg, -, -⟩ := port
  cases hu : usableStrict s.cfg bs
  · rw [whenStrict_of_unusable bs u (hcfg ▸ hu)]; exact before
  · rw [whenStrict_of_usable bs u (hcfg ▸ hu)]; exact run hu

theorem nameArm_effect (runs : RunsName i bs) : Effect i s (whenName bs (nameStep bs) s) := by
  cases hu : usableName s.cfg bs
  · rw [whenName_of_unusable bs s hu]; exact .start
  · rw [whenName_of_usable bs s hu]
    cases ha : pairAccepted s.cfg bs.d
    · have rejected : nameStep bs s = s := by simp [nameStep, ha]
      rw [rejected]; exact .start
    · exact .name runs hu ha

theorem clockArm_effect (runs : RunsClock i bs) : Effect i s (whenStrict bs (clockStep bs) s) := by
  refine Effect.start.guardStrict .rfl fun hu => ?_
  cases hr : timeInRange bs
  · have rejected : clockStep bs s = s := by simp [clockStep, hr]
    rw [rejected]; exact .start
  · exact .clock runs hu hr

theorem slowLabelArm_effect (runs : RunsSlowLabel i bs) : Effect i s (whenStrict bs (slowLabelStep bs) s) :=
  Effect.start.guardStrict .rfl (.slowLabel runs)

theorem textArm_effect (ver : Version) (runs : RunsText i bs) : Effect i s (whenStrict bs (textStep ver bs) s) :=
  Effect.start.guardStrict .rfl (.text runs)

theorem Effect.diArm (before : Effect i s u) (port : SamePort s u) (runs : RunsDi i bs) :
    Effect i s (whenStrict bs (diStep bs) u) :=
  before.guardStrict port (before.di runs)

theorem Effect.commonArm (before : Effect i s u) (port : SamePort s u) (runs : RunsCommon i bs) :
    Effect i s (whenStrict bs (commonStep bs) u) :=
  before.guardStrict port (before.common runs)

/-- Both arms of group 0, the name fragment and then the DI flag (90_conflicts.md C3). -/
theorem groupZeroArms_effect (name : RunsName i bs) (di : RunsDi i bs) :
    Effect i s (whenStrict bs (diStep bs) (whenName bs (nameStep bs) s)) :=
  (nameArm_effect name).diArm (whenName_samePort bs s (nameStep_samePort bs)) di

theorem unlessSkipped_effect {f : State → State} (run : Effect i s (f s)) : Effect i s (unlessSkipped bs f s) := by
  unfold unlessSkipped; split
  · exact .start
  · exact run

theorem groupArms_effect : Effect (.update bs) s (groupArms bs s) := by
  unfold groupArms
  split_ifs with h0 h1 h2 h4
  · exact groupZeroArms_effect (.inl ⟨rfl, h0⟩) (.inl ⟨rfl, h0⟩)
  · exact slowLabelArm_effect (.inl ⟨rfl, h1⟩)
  · exact textArm_effect _ (.inl ⟨rfl, h2⟩)
  · exact clockArm_effect (.inl ⟨rfl, h4⟩)
  · exact .start

theorem updateBlock_effect : Effect (.update bs) s (updateBlock bs s) := by
  unfold updateBlock; split
  · exact .start
  · exact groupArms_effect.commonArm (groupArms_samePort bs s) (.inl rfl)

theorem ignoredGroup_effect (h : i ∈ ignoredRows bs) : Effect i s (ignoredGroup bs s) :=
  Effect.start.commonArm .rfl (.inr (.inr h))

/-- Whatever an instruction answers, its arms reach it. -/
theorem exec_effect (h : exec i s = .next t) : Effect i s t := by
  cases i with
  | nop => cases h; exact .start
  | update bs => cases h; exact updateBlock_effect
  | reset => cases h; exact .reset rfl
  | read addr => cases h; exact .read rfl
  | g0PsDi bs => cases h; exact unlessSkipped_effect (groupZeroArms_effect (.inr rfl) (.inr (.inl rfl)))
  | g0Di bs => cases h; exact unlessSkipped_effect (Effect.start.diArm .rfl (.inr (.inr rfl)))
  | g1SlPin bs => cases h; exact slowLabelArm_effect (.inr rfl)
  | g2aRt bs => cases h; exact textArm_effect .a (.inr (.inl rfl))
  | g2bRt bs => cases h; exact textArm_effect .b (.inr (.inr rfl))
  | g4Ct bs => cases h; exact clockArm_effect (.inr rfl)
  | common bs => cases h; exact unlessSkipped_effect (Effect.start.commonArm .rfl (.inr (.inl rfl)))
  | g3Ignored bs | g5Ignored bs | g6Ignored bs | g7Ignored bs | g8Ignored bs | g9Ignored bs | g10Ignored bs
  | g11Ignored bs | g12Ignored bs | g13Ignored bs | g14Ignored bs | g15Ignored bs =>
    cases h; exact ignoredGroup_effect (by simp [ignoredRows])

end

end Sys2Proof.Machine
end

section
/-! PROOFS. The invariants of R26, R32 and R146: the reset state meets them and every step keeps them. -/

namespace Sys2Proof.Machine

/-! ### Bytes of a name buffer -/

/-- Every byte of a name buffer is FILL or an accepted character (R146). -/
def NameBytes (cfg : Config) (v : List Byte) : Prop := ∀ i, i < cfg.nameLen → NameByte cfg (getByte v i)

theorem nameBytes_fill (cfg : Config) : NameBytes cfg (List.replicate cfg.nameLen cfg.fill) :=
  fun _ hi => .inl (getByte_replicate cfg.fill hi)

/-- An accepted pair stored in a name buffer leaves only FILL and accepted characters. -/
theorem nameBytes_setPair {cfg : Config} {v : List Byte} {k : Nat} {d : Word} (hv : NameBytes cfg v)
    (hd : pairAccepted cfg d = true) (hk : k + 1 < v.length) : NameBytes cfg (setPair v k d) := by
  obtain ⟨hhi, hlo⟩ : charAccepted cfg (hiByte d) = true ∧ charAccepted cfg (loByte d) = true := by
    simpa [pairAccepted] using hd
  intro i hi
  rw [getByte_setPair v k i d hk]
  split_ifs
  · exact .inr hhi
  · exact .inr hlo
  · exact hv i hi

/-! ### The operations that touch an element of the invariants -/

variable {s t : State} (bs : RawBlockSet)

/-- The invariants speak of these elements alone. -/
theorem State.Inv.of_same (h : s.Inv) (cfg : t.cfg = s.cfg) (name : t.name = s.name) (text : t.text = s.text)
    (accName : t.record.accName = s.record.accName) (accText : t.record.accText = s.record.accText)
    (hours : t.record.hours = s.record.hours) (minutes : t.record.minutes = s.record.minutes) : t.Inv := by
  obtain ⟨legal, ⟨lrx, lcand, lacc, lrt, lat⟩, cycles, noff, toff, ab, hrs, mins, brx, bcand, bacc⟩ := h
  constructor
  case sized => constructor <;> simpa only [cfg, name, text, accName, accText]
  all_goals simpa only [cfg, name, text, accName, hours, minutes]

/-- A state at its reset values meets the invariants when its configuration is legal. -/
theorem State.IsReset.inv (h : s.IsReset) (legal : s.cfg.legal = true) : s.Inv := by
  obtain ⟨hvalidity, -⟩ := (legal_iff s.cfg).mp legal
  constructor
  case legal => exact legal
  case sized => constructor <;> simp [h.rxName, h.candName, h.accName, h.rxText, h.accText]
  case cyclesBelow => rw [h.nameCycles]; exact hvalidity
  case rxNameBytes => rw [h.rxName]; exact nameBytes_fill s.cfg
  case candNameBytes => rw [h.candName]; exact nameBytes_fill s.cfg
  case accNameBytes => rw [h.accName]; exact nameBytes_fill s.cfg
  all_goals simp [h.nameLastOff, h.textLastOff, h.textAbLast, h.hours, h.minutes]

theorem powerUp_isReset (cfg : Config) : (State.powerUp cfg).IsReset := by constructor <;> rfl

theorem resetBlock_isReset (s : State) : (resetBlock s).IsReset := by constructor <;> rfl

theorem readRegister_inv (addr : BitVec 8) (h : s.Inv) : (readRegister addr s).Inv := by
  unfold readRegister
  split <;> exact h.of_same rfl rfl rfl rfl rfl rfl rfl

/-- A wrap moves bytes from one name buffer to another and keeps `name_cycles` below VALIDITY (R144). -/
theorem validateSweep_inv (h : s.Inv) : (validateSweep s).Inv := by
  have sized := validateSweep_sized h.sized
  obtain ⟨hvalidity, hvalidity', -⟩ := (legal_iff s.cfg).mp h.legal
  rcases validateSweep_cases s with ⟨-, e⟩ | ⟨-, hcycles, e⟩ | ⟨-, -, e⟩ <;> rw [e] at sized ⊢
  · exact { h with sized, cyclesBelow := hvalidity, candNameBytes := h.rxNameBytes }
  · have counted : (s.name.nameCycles + 1#8).toNat < s.cfg.validity := by
      simp only [BitVec.toNat_add, BitVec.toNat_ofNat]; omega
    exact { h with sized, cyclesBelow := counted }
  · exact { h with sized, cyclesBelow := hvalidity, accNameBytes := h.rxNameBytes }

theorem writeNameFragment_inv (h : s.Inv) (accepted : pairAccepted s.cfg bs.d = true) :
    (writeNameFragment bs s).Inv := by
  have inBounds : bs.namePos + 1 < s.name.rxName.length := by
    obtain ⟨-, -, -, -, hlen, -⟩ := (legal_iff s.cfg).mp h.legal
    have := namePos_lt bs
    rw [h.sized.rxName]; omega
  exact { h with
    sized := writeNameFragment_sized bs h.sized
    nameOffBelow := Nat.le_of_lt_succ bs.seg2.isLt
    rxNameBytes := nameBytes_setPair h.rxNameBytes accepted inBounds }

theorem nameStep_inv (h : s.Inv) : (nameStep bs s).Inv := by
  rcases nameStep_cases bs s with ⟨-, e⟩ | ⟨accepted, -, e⟩ | ⟨accepted, -, e⟩ <;> rw [e]
  · exact h
  · exact writeNameFragment_inv bs h accepted
  · obtain ⟨_, _, _, hv⟩ := validateSweep_frame s
    exact writeNameFragment_inv bs (validateSweep_inv h) (by rw [hv]; exact accepted)

theorem textStep_inv (ver : Version) (h : s.Inv) : (textStep ver bs s).Inv := by
  have sized := textStep_sized bs ver h.sized
  rw [textStep_eq] at sized ⊢
  exact { h with
    sized
    textOffBelow := Nat.le_of_lt_succ bs.seg4.isLt
    abLastValid := fun unseen => by cases unseen }

theorem clockStep_inv (h : s.Inv) : (clockStep bs s).Inv := by
  have sized := clockStep_sized bs h.sized
  unfold clockStep at sized ⊢
  split at sized
  next inRange =>
    obtain ⟨hhour, hminute⟩ := (timeInRange_iff bs).mp inRange
    rw [if_pos inRange]
    exact { h with sized, hoursInRange := hhour, minutesInRange := hminute }
  next outside => rw [if_neg outside]; exact h

theorem slowLabelStep_inv (h : s.Inv) : (slowLabelStep bs s).Inv := h.of_same rfl rfl rfl rfl rfl rfl rfl

theorem diStep_inv (h : s.Inv) : (diStep bs s).Inv := by
  obtain ⟨_, _, _, e⟩ := setDiFlag_frame bs s.record
  rw [diStep, e]
  exact h.of_same rfl rfl rfl rfl rfl rfl rfl

theorem commonStep_inv (h : s.Inv) : (commonStep bs s).Inv := by
  rw [commonStep_eq]
  exact h.of_same rfl rfl rfl rfl rfl rfl rfl

/-! ### Instructions and steps -/

theorem Effect.inv {i : Instr} (h : Effect i s t) (hs : s.Inv) : t.Inv := by
  induction h with
  | start => exact hs
  | read => exact readRegister_inv _ hs
  | reset => exact (resetBlock_isReset s).inv hs.legal
  | name => exact nameStep_inv _ hs
  | slowLabel => exact slowLabelStep_inv _ hs
  | text => exact textStep_inv _ _ hs
  | clock => exact clockStep_inv _ hs
  | di _ _ _ hu => exact diStep_inv _ hu
  | common _ _ _ hu => exact commonStep_inv _ hu

/-- Every instruction keeps the invariants, on every block set. -/
theorem exec_inv {i : Instr} (h : exec i s = .next t) (hs : s.Inv) : t.Inv := (exec_effect h).inv hs

/-! ### The obligations -/

/-- Settles O31: a step waits or runs one instruction, and taking the command's words touches no element of the
invariants. -/
theorem stepKeepsTheInvariants : Obligations.StepKeepsTheInvariants := by
  intro s t hs h
  rcases step_cases s with ⟨-, e⟩ | ⟨-, -, e⟩ | ⟨-, -, e⟩ | ⟨-, -, e⟩ | ⟨i, rest, -, -, e⟩ <;> rw [e] at h
  · cases h
  · cases h; exact hs
  · cases h
  · cases h
  · exact exec_inv h (hs.of_same rfl rfl rfl rfl rfl rfl rfl)

/-- Settles O32: the state at power-up has every element at its reset value. -/
theorem resetMeetsTheInvariants : Obligations.ResetMeetsTheInvariants := by
  have powerUp_inv : ∀ cfg : Config, cfg.legal = true → (State.powerUp cfg).Inv :=
    fun cfg => (powerUp_isReset cfg).inv
  exact ⟨powerUp_inv .default (by decide), powerUp_inv⟩

end Sys2Proof.Machine
end

section
/-! PROOFS. READ: the register map field by field, its side effect, and what a host cannot see. -/

namespace Sys2Proof.Machine

/-! ### The register map at each address (R41 to R48) -/

section
variable (r : Record)

theorem regRead_pi : regRead r 0x00#8 = r.country ++ r.area ++ r.ref := rfl

theorem regRead_ptyver : regRead r 0x01#8 = 0#7 ++ bit (versionBit r.version) ++ 0#3 ++ r.pty := rfl

theorem regRead_flags : regRead r 0x02#8 = flagsWord r := rfl

theorem regRead_clrscr : regRead r 0x03#8 = 0#15 ++ bit r.clearScreen := rfl

theorem regRead_time : regRead r 0x04#8 = 0#3 ++ r.hours ++ 0#2 ++ r.minutes := rfl

theorem regRead_pin : regRead r 0x05#8 = r.pinDay ++ r.pinHour ++ r.pinMinute := rfl

variable {addr : BitVec 8}

/-- Above the six field registers the map is decided by the address range. -/
theorem regRead_of_ge (h : 0x06 ≤ addr.toNat) : regRead r addr =
    if 0x10 ≤ addr.toNat ∧ addr.toNat ≤ 0x13 then pairAt r.accName (2 * (addr.toNat - 0x10))
    else if 0x40 ≤ addr.toNat ∧ addr.toNat ≤ 0x5F then pairAt r.accText (2 * (addr.toNat - 0x40))
    else 0#16 := by
  have ne : ∀ a : BitVec 8, a.toNat < 0x06 → addr ≠ a := fun a ha e => by rw [e] at h; omega
  unfold regRead
  rw [if_neg (ne _ (by decide)), if_neg (ne _ (by decide)), if_neg (ne _ (by decide)), if_neg (ne _ (by decide)),
    if_neg (ne _ (by decide)), if_neg (ne _ (by decide))]

theorem regRead_name {k : Nat} (hk : k ≤ 3) (h : addr.toNat = 0x10 + k) :
    regRead r addr = pairAt r.accName (2 * k) := by
  rw [regRead_of_ge r (by omega), if_pos (by omega), h, Nat.add_sub_cancel_left]

theorem regRead_text {k : Nat} (hk : k ≤ 31) (h : addr.toNat = 0x40 + k) :
    regRead r addr = pairAt r.accText (2 * k) := by
  rw [regRead_of_ge r (by omega), if_neg (by omega), if_pos (by omega), h, Nat.add_sub_cancel_left]

theorem regRead_reserved
    (h : (0x06 ≤ addr.toNat ∧ addr.toNat ≤ 0x0F) ∨ (0x14 ≤ addr.toNat ∧ addr.toNat ≤ 0x3F) ∨ 0x60 ≤ addr.toNat) :
    regRead r addr = 0#16 := by
  rw [regRead_of_ge r (by omega), if_neg (by omega), if_neg (by omega)]

end

/-! ### Bit fields -/

section
variable {u v w x : Nat} (a : BitVec u) (b : BitVec v) (c : BitVec w) (d : BitVec x)

/-- A field above the last part of a concatenation is a field of what stands before it. -/
theorem extractLsb'_append_add (i len : Nat) : (a ++ b).extractLsb' (v + i) len = a.extractLsb' i len := by
  rw [BitVec.extractLsb'_append_eq_of_le (Nat.le_add_right v i), Nat.add_sub_cancel_left]

theorem extractLsb'_append_three : (a ++ b ++ c).extractLsb' (w + v) u = a ∧ (a ++ b ++ c).extractLsb' w v = b ∧
    (a ++ b ++ c).extractLsb' 0 w = c := by
  refine ⟨?_, ?_, BitVec.extractLsb'_append_eq_right⟩
  · rw [extractLsb'_append_add]; exact BitVec.extractLsb'_append_eq_left
  · exact (extractLsb'_append_add _ c 0 v).trans BitVec.extractLsb'_append_eq_right

theorem extractLsb'_append_four : (a ++ b ++ c ++ d).extractLsb' (x + (w + v)) u = a ∧
    (a ++ b ++ c ++ d).extractLsb' (x + w) v = b ∧ (a ++ b ++ c ++ d).extractLsb' x w = c ∧
    (a ++ b ++ c ++ d).extractLsb' 0 x = d := by
  obtain ⟨ha, hb, hc⟩ := extractLsb'_append_three a b c
  refine ⟨?_, ?_, ?_, BitVec.extractLsb'_append_eq_right⟩
  · rw [extractLsb'_append_add, ha]
  · rw [extractLsb'_append_add, hb]
  · exact (extractLsb'_append_add _ d 0 w).trans hc

variable (p : Bool) (i len : Nat)

theorem getLsbD_append_bit_zero : (a ++ bit p).getLsbD 0 = p := by
  rw [BitVec.getLsbD_append]; simp [bit]

theorem getLsbD_append_bit_succ : (a ++ bit p).getLsbD (i + 1) = a.getLsbD i := by
  simp [BitVec.getLsbD_append]

theorem extractLsb'_append_bit_succ : (a ++ bit p).extractLsb' (i + 1) len = a.extractLsb' i len :=
  BitVec.extractLsb'_append_eq_of_le (Nat.le_add_left 1 i)

end

theorem versionBit_iff (v : Version) : versionBit v = true ↔ v = .b := by cases v <;> decide

section
variable (r : Record)

theorem regRead_pi_fields : (regRead r 0x00#8).extractLsb' 12 4 = r.country ∧
    (regRead r 0x00#8).extractLsb' 8 4 = r.area ∧ (regRead r 0x00#8).extractLsb' 0 8 = r.ref := by
  rw [regRead_pi]; exact extractLsb'_append_three r.country r.area r.ref

theorem regRead_ptyver_fields : (regRead r 0x01#8).extractLsb' 9 7 = 0#7 ∧
    ((regRead r 0x01#8).getLsbD 8 = true ↔ r.version = .b) ∧ (regRead r 0x01#8).extractLsb' 5 3 = 0#3 ∧
    (regRead r 0x01#8).extractLsb' 0 5 = r.pty := by
  obtain ⟨hhigh, hbit, hmid, hpty⟩ := extractLsb'_append_four 0#7 (bit (versionBit r.version)) 0#3 r.pty
  have version := congrArg (BitVec.getLsbD · 0) hbit
  rw [regRead_ptyver, ← versionBit_iff]
  exact ⟨hhigh, by simpa [bit] using version, hmid, hpty⟩

theorem regRead_flags_fields : (regRead r 0x02#8).extractLsb' 7 9 = 0#9 ∧
    (regRead r 0x02#8).getLsbD 6 = r.emergency ∧ (regRead r 0x02#8).getLsbD 5 = r.dynPty ∧
    (regRead r 0x02#8).getLsbD 4 = r.compressed ∧ (regRead r 0x02#8).getLsbD 3 = r.stereo ∧
    (regRead r 0x02#8).getLsbD 2 = r.ms ∧ (regRead r 0x02#8).getLsbD 1 = r.ta ∧
    (regRead r 0x02#8).getLsbD 0 = r.tp := by
  simp only [regRead_flags, flagsWord, getLsbD_append_bit_zero, getLsbD_append_bit_succ, extractLsb'_append_bit_succ,
    BitVec.extractLsb'_eq_self, and_self]

theorem regRead_clrscr_fields : (regRead r 0x03#8).extractLsb' 1 15 = 0#15 ∧
    (regRead r 0x03#8).getLsbD 0 = r.clearScreen := by
  rw [regRead_clrscr]
  exact ⟨extractLsb'_append_bit_succ 0#15 r.clearScreen 0 15, getLsbD_append_bit_zero 0#15 r.clearScreen⟩

theorem regRead_time_fields : (regRead r 0x04#8).extractLsb' 13 3 = 0#3 ∧
    (regRead r 0x04#8).extractLsb' 8 5 = r.hours ∧ (regRead r 0x04#8).extractLsb' 6 2 = 0#2 ∧
    (regRead r 0x04#8).extractLsb' 0 6 = r.minutes := by
  rw [regRead_time]; exact extractLsb'_append_four 0#3 r.hours 0#2 r.minutes

theorem regRead_pin_fields : (regRead r 0x05#8).extractLsb' 11 5 = r.pinDay ∧
    (regRead r 0x05#8).extractLsb' 6 5 = r.pinHour ∧ (regRead r 0x05#8).extractLsb' 0 6 = r.pinMinute := by
  rw [regRead_pin]; exact extractLsb'_append_three r.pinDay r.pinHour r.pinMinute

end

/-- The two characters of a name or text register (R47, R48). -/
theorem pairAt_fields (v : List Byte) (i : Nat) :
    (pairAt v i).extractLsb' 8 8 = getByte v i ∧ (pairAt v i).extractLsb' 0 8 = getByte v (i + 1) :=
  ⟨BitVec.extractLsb'_append_eq_left, BitVec.extractLsb'_append_eq_right⟩

/-- CLRSCR answers `clear_screen`, zero-extended (R44). -/
theorem regRead_clrscr_eq_ite (r : Record) : regRead r 0x03#8 = if r.clearScreen then 1#16 else 0#16 := by
  rw [regRead_clrscr]
  cases r.clearScreen <;> rfl

/-! ### The side effect of READ -/

section
variable (s : State) {addr : BitVec 8}

theorem exec_read (addr : BitVec 8) : exec (.read addr) s = .next (readRegister addr s) := rfl

@[simp] theorem readRegister_response (addr : BitVec 8) :
    (readRegister addr s).response = some (regRead s.record addr) := rfl

/-- A read of any address but CLRSCR writes the response alone. -/
theorem readRegister_of_ne (h : addr ≠ 0x03#8) :
    readRegister addr s = s.withResponse (some (regRead s.record addr)) := by
  unfold readRegister; rw [if_neg h]

/-- The Record after a READ depends on the Record and the address alone. -/
theorem readRegister_record (addr : BitVec 8) :
    (readRegister addr s).record =
      if addr = 0x03#8 then { s.record with clearScreen := false } else s.record := by
  unfold readRegister; split <;> rfl

@[simp] theorem readRegister_name (addr : BitVec 8) : (readRegister addr s).name = s.name := by
  unfold readRegister; split <;> rfl

@[simp] theorem readRegister_text (addr : BitVec 8) : (readRegister addr s).text = s.text := by
  unfold readRegister; split <;> rfl

end

/-! ### The obligations -/

/-- Settles O4: the response is the register map's word, whose bit fields are those of each register. -/
theorem readAnswersTheRegisterMap : Obligations.ReadAnswersTheRegisterMap := by
  intro s addr
  refine ⟨readRegister addr s, regRead s.record addr, exec_read s addr, readRegister_response s addr,
    readRegister_of_ne s, ?pi, ?ptyver, ?flags, ?clrscr, ?time, ?pin, ?name, ?text, regRead_reserved s.record⟩
  case pi => rintro rfl; exact regRead_pi_fields s.record
  case ptyver => rintro rfl; exact regRead_ptyver_fields s.record
  case flags => rintro rfl; exact regRead_flags_fields s.record
  case clrscr => rintro rfl; exact regRead_clrscr_fields s.record
  case time => rintro rfl; exact regRead_time_fields s.record
  case pin => rintro rfl; exact regRead_pin_fields s.record
  case name => intro k hk h; rw [regRead_name s.record hk h]; exact pairAt_fields _ _
  case text => intro k hk h; rw [regRead_text s.record hk h]; exact pairAt_fields _ _

/-- Settles O6: the first read of CLRSCR answers the flag and clears it; any other read keeps the Record, so that
repeating it answers the same word. -/
theorem clearScreenIsConsumedByItsRead : Obligations.ClearScreenIsConsumedByItsRead := by
  refine ⟨fun s => ?_, fun s addr h => ?_⟩
  · have cleared : (readRegister 0x03#8 s).record.clearScreen = false := by
      rw [readRegister_record, if_pos rfl]
    refine ⟨_, _, exec_read s _, ?_, cleared, exec_read _ _, ?_⟩
    · rw [readRegister_response, regRead_clrscr_eq_ite]
    · rw [readRegister_response, regRead_clrscr_eq_ite, cleared]; rfl
  · have keeps : (readRegister addr s).record = s.record := by rw [readRegister_record, if_neg h]
    refine ⟨_, exec_read s addr, keeps, ?_⟩
    rw [exec_read, readRegister_of_ne (readRegister addr s) h, keeps, readRegister_of_ne s h]
    rfl

/-- Settles O7: the response and the Record after a READ are functions of the Record, and the accumulators stay. -/
theorem workingStateIsNotReadable : Obligations.WorkingStateIsNotReadable := by
  intro s s' addr same
  refine ⟨_, _, exec_read s addr, exec_read s' addr, ?_, ?_, readRegister_name s addr, readRegister_name s' addr,
    readRegister_text s addr, readRegister_text s' addr⟩
  · rw [readRegister_response, readRegister_response, same]
  · rw [readRegister_record, readRegister_record, same]

end Sys2Proof.Machine
end

section
/-! PROOFS. The writers of each group of elements (R22, R31, R38): what an instruction must be, and which verdict must
hold, for the group to change. -/

namespace Sys2Proof.Machine

/-! ### The groups of elements and their writers -/

/-- The elements of R22 in the groups that have one writer each. -/
inductive Part where
  /-- The name accumulator. -/
  | name
  /-- The text accumulator. -/
  | text
  /-- `acc_name`. -/
  | accName
  /-- `acc_text`. -/
  | accText
  /-- `clear_screen`. -/
  | clearScreen
  /-- `hours` and `minutes`. -/
  | clock
  /-- `emergency` and the programme item number. -/
  | slowLabel
  /-- The DI flags. -/
  | di
  /-- The fields of blocks A and B. -/
  | common
  deriving DecidableEq

/-- The part has the same value in both states. -/
def SamePart (p : Part) (s t : State) : Prop :=
  match p with
  | .name => t.name = s.name
  | .text => t.text = s.text
  | .accName => t.record.accName = s.record.accName
  | .accText => t.record.accText = s.record.accText
  | .clearScreen => t.record.clearScreen = s.record.clearScreen
  | .clock => t.record.hours = s.record.hours ∧ t.record.minutes = s.record.minutes
  | .slowLabel => t.record.emergency = s.record.emergency ∧ t.record.pinDay = s.record.pinDay ∧
      t.record.pinHour = s.record.pinHour ∧ t.record.pinMinute = s.record.pinMinute
  | .di => t.record.dynPty = s.record.dynPty ∧ t.record.compressed = s.record.compressed ∧
      t.record.stereo = s.record.stereo
  | .common => t.record.country = s.record.country ∧ t.record.area = s.record.area ∧ t.record.ref = s.record.ref ∧
      t.record.pty = s.record.pty ∧ t.record.version = s.record.version ∧ t.record.tp = s.record.tp ∧
      t.record.ta = s.record.ta ∧ t.record.ms = s.record.ms

/-- `i` is a writer of the part other than RESET, on a block set with the verdict and the event the part asks for; and for the
parts of R31 and R38, the value written. -/
def Writes (p : Part) (i : Instr) (s t : State) : Prop :=
  match p with
  | .name => ∃ bs, RunsName i bs ∧ usableName s.cfg bs = true ∧ pairAccepted s.cfg bs.d = true
  | .text => ∃ bs, RunsText i bs ∧ usableStrict s.cfg bs = true
  | .accName => ∃ bs, RunsName i bs ∧ usableName s.cfg bs = true ∧ pairAccepted s.cfg bs.d = true ∧
      bs.seg2.toNat < s.name.nameLastOff.toNat ∧ s.name.rxName = s.name.candName ∧
      s.cfg.validity ≤ s.name.nameCycles.toNat + 1 ∧ t.record.accName = s.name.rxName
  | .accText => ∃ bs, RunsText i bs ∧ usableStrict s.cfg bs = true ∧ bs.seg4.toNat < s.text.textLastOff.toNat ∧
      t.record.accText = s.text.rxText
  | .clearScreen => (i = .read 0x03#8 ∧ t.record.clearScreen = false) ∨
      (t.record.clearScreen = true ∧ ∃ bs, RunsText i bs ∧ usableStrict s.cfg bs = true ∧
        s.text.textAbValid = true ∧ bs.b.getLsbD 4 ≠ s.text.textAbLast)
  | .clock => ∃ bs, RunsClock i bs ∧ usableStrict s.cfg bs = true ∧ timeInRange bs = true
  | .slowLabel => ∃ bs, RunsSlowLabel i bs ∧ usableStrict s.cfg bs = true
  | .di => ∃ bs, RunsDi i bs ∧ usableStrict s.cfg bs = true
  | .common => ∃ bs, RunsCommon i bs ∧ usableStrict s.cfg bs = true

section
variable {i : Instr} {bs : RawBlockSet} {s t u : State} {p : Part}

theorem SamePart.rfl : SamePart p s s := by cases p <;> simp [SamePart]

/-- Where `t` has the part as `u` has it, what holds of `u` holds of `t`. -/
theorem samePart_or_writes_of_same (same : SamePart p u t) (before : SamePart p s u ∨ Writes p i s u) :
    SamePart p s t ∨ Writes p i s t := by
  cases p <;> simp_all [SamePart, Writes]

/-! ### What each arm leaves, and what it writes into the parts of R31 and R38 -/

theorem readRegister_samePart {addr : BitVec 8} (h : p ≠ .clearScreen ∨ addr ≠ 0x03#8) :
    SamePart p s (readRegister addr s) := by
  cases p <;> simp_all [SamePart, readRegister_record, apply_ite]

theorem nameStep_samePart (hname : p ≠ .name) (hacc : p ≠ .accName) : SamePart p s (nameStep bs s) := by
  obtain ⟨n, a, e⟩ := nameStep_frame bs s
  rw [e]
  cases p <;> simp_all [SamePart]

/-- NAME_STEP keeps `acc_name` but where it promotes (R144). -/
theorem nameStep_accName_cases (bs : RawBlockSet) (s : State) :
    (nameStep bs s).record.accName = s.record.accName ∨
    (bs.seg2.toNat < s.name.nameLastOff.toNat ∧ s.name.rxName = s.name.candName ∧
      s.cfg.validity ≤ s.name.nameCycles.toNat + 1 ∧ (nameStep bs s).record.accName = s.name.rxName) := by
  rcases nameStep_cases bs s with ⟨-, e⟩ | ⟨-, -, e⟩ | ⟨-, wrap, e⟩ <;> rw [e]
  · exact .inl rfl
  · exact .inl rfl
  · rcases validateSweep_cases s with ⟨-, v⟩ | ⟨-, -, v⟩ | ⟨equal, last, v⟩ <;> rw [v]
    · exact .inl rfl
    · exact .inl rfl
    · exact .inr ⟨(nameWrap_iff bs s.name).mp wrap, equal, last, rfl⟩

theorem textStep_samePart {ver : Version} (htext : p ≠ .text) (hacc : p ≠ .accText) (hclear : p ≠ .clearScreen) :
    SamePart p s (textStep ver bs s) := by
  rw [textStep_eq]
  cases p <;> simp_all [SamePart]

/-- TEXT_STEP keeps `acc_text` but at a wrap (R163). -/
theorem textStep_accText_cases (ver : Version) (bs : RawBlockSet) (s : State) :
    (textStep ver bs s).record.accText = s.record.accText ∨
    (bs.seg4.toNat < s.text.textLastOff.toNat ∧ (textStep ver bs s).record.accText = s.text.rxText) := by
  rw [textStep_eq, ← textWrap_iff]
  cases textWrap bs s.text
  · exact .inl rfl
  · exact .inr ⟨rfl, rfl⟩

/-- TEXT_STEP keeps `clear_screen`, or sets it at a toggled flag (R167). -/
theorem textStep_clearScreen_cases (ver : Version) (bs : RawBlockSet) (s : State) :
    (textStep ver bs s).record.clearScreen = s.record.clearScreen ∨
    ((textStep ver bs s).record.clearScreen = true ∧ s.text.textAbValid = true ∧ bs.textAb ≠ s.text.textAbLast) := by
  rw [textStep_eq, ← textToggled_iff]
  cases textToggled bs s.text
  · exact .inl (Bool.or_false _)
  · exact .inr ⟨Bool.or_true _, rfl⟩

theorem slowLabelStep_samePart (h : p ≠ .slowLabel) : SamePart p s (slowLabelStep bs s) := by
  cases p <;> simp_all [SamePart, slowLabelStep]

theorem clockStep_samePart (h : p ≠ .clock) : SamePart p s (clockStep bs s) := by
  unfold clockStep
  cases p <;> split <;> simp_all [SamePart]

theorem diStep_samePart (h : p ≠ .di) : SamePart p s (diStep bs s) := by
  obtain ⟨x, y, z, e⟩ := setDiFlag_frame bs s.record
  rw [diStep, e]
  cases p <;> simp_all [SamePart]

theorem commonStep_samePart (h : p ≠ .common) : SamePart p s (commonStep bs s) := by
  rw [commonStep_eq]
  cases p <;> simp_all [SamePart]

/-! ### The table of writers -/

/-- A part that an instruction other than RESET changes has that instruction as its writer. -/
theorem Effect.samePart_or_writes (h : Effect i s t) (hreset : i ≠ .reset) (p : Part) :
    SamePart p s t ∨ Writes p i s t := by
  induction h with
  | start => exact .inl .rfl
  | @read addr runs =>
    by_cases hclr : p = .clearScreen ∧ addr = 0x03#8
    · obtain ⟨rfl, rfl⟩ := hclr
      exact .inr (.inl ⟨runs, rfl⟩)
    · exact .inl (readRegister_samePart (not_and_or.mp hclr))
  | reset runs => exact absurd runs hreset
  | @name bs runs usable accepted =>
    cases p with
    | name => exact .inr ⟨bs, runs, usable, accepted⟩
    | accName => exact (nameStep_accName_cases bs s).imp_right fun promotion => ⟨bs, runs, usable, accepted, promotion⟩
    | _ => exact .inl (nameStep_samePart nofun nofun)
  | @slowLabel bs runs usable =>
    cases p with
    | slowLabel => exact .inr ⟨bs, runs, usable⟩
    | _ => exact .inl (slowLabelStep_samePart nofun)
  | @text bs ver runs usable =>
    cases p with
    | text => exact .inr ⟨bs, runs, usable⟩
    | accText => exact (textStep_accText_cases ver bs s).imp_right fun promotion => ⟨bs, runs, usable, promotion⟩
    | clearScreen =>
      exact (textStep_clearScreen_cases ver bs s).imp_right fun ⟨set, toggled⟩ => .inr ⟨set, bs, runs, usable, toggled⟩
    | _ => exact .inl (textStep_samePart nofun nofun nofun)
  | @clock bs runs usable inRange =>
    cases p with
    | clock => exact .inr ⟨bs, runs, usable, inRange⟩
    | _ => exact .inl (clockStep_samePart nofun)
  | @di bs u _ runs usable before =>
    cases p with
    | di => exact .inr ⟨bs, runs, usable⟩
    | _ => exact samePart_or_writes_of_same (diStep_samePart nofun) before
  | @common bs u _ runs usable before =>
    cases p with
    | common => exact .inr ⟨bs, runs, usable⟩
    | _ => exact samePart_or_writes_of_same (commonStep_samePart nofun) before

/-- What changes a part is its writer. -/
theorem exec_writes (h : exec i s = .next t) (hreset : i ≠ .reset) {p : Part} (changed : ¬ SamePart p s t) :
    Writes p i s t :=
  ((exec_effect h).samePart_or_writes hreset p).resolve_left changed

end

/-! ### The obligations -/

/-- Settles O28: of the writers of `acc_name` and `acc_text` beside RESET, each is a promotion. -/
theorem acceptedBuffersOnlyByPromotion : Obligations.AcceptedBuffersOnlyByPromotion := by
  intro i s t h
  by_cases hreset : i = .reset
  · exact ⟨fun _ => .inl hreset, fun _ => .inl hreset⟩
  · exact ⟨fun changed => .inr (exec_writes h hreset (p := .accName) changed),
      fun changed => .inr (exec_writes h hreset (p := .accText) changed)⟩

/-- Settles O29: RESET leaves the flag 0, READ of CLRSCR leaves it 0, and TEXT_STEP alone leaves it 1 where it was 0. -/
theorem clearScreenWriters : Obligations.ClearScreenWriters := by
  intro i s t h
  by_cases hreset : i = .reset
  · subst hreset
    cases h
    exact ⟨fun _ set => (nomatch set), fun _ _ => .inr rfl⟩
  have writer : ¬ SamePart .clearScreen s t → Writes .clearScreen i s t := exec_writes h hreset
  refine ⟨fun before after => ?_, fun before after => ?_⟩ <;>
    rcases writer (by simp [SamePart, before, after]) with ⟨hread, cleared⟩ | ⟨set, toggled⟩
  · rw [after] at cleared; cases cleared
  · exact toggled
  · exact .inl hread
  · rw [after] at set; cases set

/-- Settles O30: each clause is a row of the table of writers. -/
theorem elementsChangeOnlyByTheirWriters : Obligations.ElementsChangeOnlyByTheirWriters := by
  intro i s t h hreset
  refine ⟨exec_writes h hreset (p := .name), exec_writes h hreset (p := .text), fun changed => ?clock,
    fun changed => ?slowLabel, fun changed => ?di, fun changed => ?common⟩
  case clock => exact exec_writes h hreset (p := .clock) (by simpa only [SamePart, not_and_or] using changed)
  case slowLabel => exact exec_writes h hreset (p := .slowLabel) (by simpa only [SamePart, not_and_or] using changed)
  case di => exact exec_writes h hreset (p := .di) (by simpa only [SamePart, not_and_or] using changed)
  case common => exact exec_writes h hreset (p := .common) (by simpa only [SamePart, not_and_or] using changed)

end Sys2Proof.Machine
end

section
/-! PROOFS. The command encoding (R81 to R85): the legal command words, and decoder and encoder as inverses. -/

namespace Sys2Proof

/-! ### Legal command words (R81, R83, R97) -/

section
variable (w : Word)

theorem cmdOp_toNat : (cmdOp w).toNat = w.toNat / 4096 := by
  have := w.isLt
  simp only [cmdOp, BitVec.extractLsb'_toNat, Nat.shiftRight_eq_div_pow]; omega

theorem cmdRsv_toNat : (cmdRsv w).toNat = w.toNat / 256 % 16 := by
  simp [cmdRsv, Nat.shiftRight_eq_div_pow]

theorem cmdAddr_toNat : (cmdAddr w).toNat = w.toNat % 256 := by
  simp [cmdAddr]

/-- The legal words of R83, by arithmetic on the word. -/
theorem legalCommand_iff : legalCommand w = true ↔
    w.toNat / 4096 ≤ 3 ∧ w.toNat / 256 % 16 = 0 ∧ (w.toNat / 4096 = 3 ∨ w.toNat % 256 = 0) := by
  simp only [legalCommand, Bool.and_eq_true, Bool.or_eq_true, decide_eq_true_eq, and_assoc, ← BitVec.toNat_inj,
    cmdOp_toNat, cmdRsv_toNat, cmdAddr_toNat, BitVec.toNat_ofNat, Nat.reducePow, Nat.reduceMod]

theorem toNat_read_word (addr : BitVec 8) : (0x30#8 ++ addr : Word).toNat = 0x3000 + addr.toNat := by
  revert addr; decide

/-- The legal command words are NOP, UPDATE and RESET without other bits, and READ with any address (R97). -/
theorem legalCommand_cases {w : Word} (h : legalCommand w = true) :
    w = 0x0000#16 ∨ w = 0x1000#16 ∨ w = 0x2000#16 ∨ ∃ addr : BitVec 8, w = 0x30#8 ++ addr := by
  obtain ⟨hop, hrsv, haddr⟩ := (legalCommand_iff w).mp h
  by_cases hread : w.toNat / 4096 = 3
  · refine .inr (.inr (.inr ⟨cmdAddr w, BitVec.eq_of_toNat_eq ?_⟩))
    rw [toNat_read_word, cmdAddr_toNat]; omega
  · have hword : w.toNat = 0x0000 ∨ w.toNat = 0x1000 ∨ w.toNat = 0x2000 := by omega
    simp only [← BitVec.toNat_inj]
    exact hword.imp_right (.imp_right .inl)

end

/-! ### The host commands -/

theorem isCommand_cases {i : Instr} (h : i.isCommand = true) :
    i = .nop ∨ (∃ bs, i = .update bs) ∨ i = .reset ∨ ∃ addr, i = .read addr := by
  cases i with
  | nop => exact .inl rfl
  | update bs => exact .inr (.inl ⟨bs, rfl⟩)
  | reset => exact .inr (.inr (.inl rfl))
  | read addr => exact .inr (.inr (.inr ⟨addr, rfl⟩))
  | _ => cases h

/-- The decoder takes exactly the words of a command (R82, R84, R85). -/
theorem decode_encode_append {i : Instr} (h : i.isCommand = true) (rest : List Word) :
    decode (encode i ++ rest) = .ok (i, rest) := by
  rcases isCommand_cases h with rfl | ⟨bs, rfl⟩ | rfl | ⟨addr, rfl⟩
  · exact decode_nop_word rest
  · exact decode_update_words rest bs.a bs.b bs.c bs.d bs.s0 bs.s1
  · exact decode_reset_word rest
  · exact decode_read_word rest addr

/-- An UPDATE is seven words and every other command one (R85). -/
theorem length_encode_of_isCommand {i : Instr} (h : i.isCommand = true) :
    (∃ bs, i = .update bs ∧ (encode i).length = 7) ∨ ((∀ bs, i ≠ .update bs) ∧ (encode i).length = 1) := by
  rcases isCommand_cases h with rfl | ⟨bs, rfl⟩ | rfl | ⟨addr, rfl⟩
  · exact .inr ⟨nofun, rfl⟩
  · exact .inl ⟨bs, rfl, rfl⟩
  · exact .inr ⟨nofun, rfl⟩
  · exact .inr ⟨nofun, rfl⟩

/-! ### What the decoder can answer -/

/-- After an UPDATE word the decoder misses words, or the payload of a block set follows (R85). -/
theorem decode_update_word_cases (ws : List Word) :
    decode (0x1000#16 :: ws) = .error .incompleteCommand ∨ ∃ bs rest, ws = RawBlockSet.words bs ++ rest := by
  match ws with
  | a :: b :: c :: d :: s0 :: s1 :: rest => exact .inr ⟨⟨a, b, c, d, s0, s1⟩, rest, rfl⟩
  | [] | [_] | [_, _] | [_, _, _] | [_, _, _, _] | [_, _, _, _, _] => exact .inl rfl

/-- The decoder finds no word, an illegal command word, an UPDATE word without its payload, or the words of a command. -/
theorem decode_cases (ws : List Word) :
    (ws = [] ∧ decode ws = .error .noCommand) ∨
    (∃ w rest, ws = w :: rest ∧ legalCommand w = false ∧ decode ws = .error .illegalCommand) ∨
    (∃ rest, ws = 0x1000#16 :: rest ∧ decode ws = .error .incompleteCommand) ∨
    (∃ i rest, i.isCommand = true ∧ ws = encode i ++ rest ∧ decode ws = .ok (i, rest)) := by
  have command : ∀ i rest, i.isCommand = true → ∃ j rest', j.isCommand = true ∧ encode i ++ rest = encode j ++ rest' ∧
      decode (encode i ++ rest) = .ok (j, rest') :=
    fun i rest h => ⟨i, rest, h, rfl, decode_encode_append h rest⟩
  rcases ws with _ | ⟨w, rest⟩
  · exact .inl ⟨rfl, rfl⟩
  cases hl : legalCommand w
  · exact .inr (.inl ⟨w, rest, rfl, hl, decode_illegal rest hl⟩)
  right; right
  rcases legalCommand_cases hl with rfl | rfl | rfl | ⟨addr, rfl⟩
  · exact .inr (command .nop rest rfl)
  · rcases decode_update_word_cases rest with h | ⟨bs, rest', rfl⟩
    · exact .inl ⟨rest, rfl, h⟩
    · exact .inr (command (.update bs) rest' rfl)
  · exact .inr (command .reset rest rfl)
  · exact .inr (command (.read addr) rest rfl)

/-- What decodes is the words of a command and the rest (R85). -/
theorem eq_encode_append_of_decode {ws rest : List Word} {i : Instr} (h : decode ws = .ok (i, rest)) :
    i.isCommand = true ∧ ws = encode i ++ rest := by
  rcases decode_cases ws with ⟨-, e⟩ | ⟨_, _, -, -, e⟩ | ⟨_, -, e⟩ | ⟨j, rest', hj, hws, e⟩ <;> rw [h] at e
  · cases e
  · cases e
  · cases e
  · cases e; exact ⟨hj, hws⟩

/-- The decoder calls exactly the illegal command words illegal (R83). -/
theorem decode_eq_illegalCommand_iff (w : Word) (rest : List Word) :
    decode (w :: rest) = .error .illegalCommand ↔ legalCommand w = false := by
  refine ⟨fun h => ?_, decode_illegal rest⟩
  rcases decode_cases (w :: rest) with ⟨-, e⟩ | ⟨v, _, hws, hl, -⟩ | ⟨_, -, e⟩ | ⟨_, _, -, -, e⟩
  · cases h.symm.trans e
  · cases hws; exact hl
  · cases h.symm.trans e
  · cases h.symm.trans e

/-! ### The obligations -/

/-- Settles O38, command form by command form. -/
theorem decodeOfEncodeIsTheCommand : Obligations.DecodeOfEncodeIsTheCommand := by
  intro i rest h
  exact decode_encode_append h rest

/-- Settles O39: of the answers of the decoder, only a command's own words are a success. -/
theorem decodedWordsAreTheEncoding : Obligations.DecodedWordsAreTheEncoding := by
  intro ws rest i h
  obtain ⟨hi, hws⟩ := eq_encode_append_of_decode h
  exact ⟨hi, hws, length_encode_of_isCommand hi⟩

end Sys2Proof
end

section
/-! PROOFS. The rows a block set fits (R95, R96): the dispatch map against the masks and patterns of the table. -/

namespace Sys2Proof

/-! ### Block B under the masks of the rows (R88) -/

section
variable (w p : Word)

theorem and_group_mask : w &&& 0xF000#16 = w >>> 12 <<< 12 := by
  ext i hi; interval_cases i <;> simp

theorem and_version_mask : w &&& 0xF800#16 = w >>> 11 <<< 11 := by
  ext i hi; interval_cases i <;> simp

theorem and_group_mask_eq_iff : w &&& 0xF000#16 = p ↔ w.toNat / 4096 = p.toNat / 4096 ∧ p.toNat % 4096 = 0 := by
  rw [and_group_mask, ← BitVec.toNat_inj]
  simp only [BitVec.toNat_shiftLeft, BitVec.toNat_ushiftRight, Nat.shiftRight_eq_div_pow, Nat.shiftLeft_eq]
  omega

theorem and_version_mask_eq_iff : w &&& 0xF800#16 = p ↔ w.toNat / 2048 = p.toNat / 2048 ∧ p.toNat % 2048 = 0 := by
  rw [and_version_mask, ← BitVec.toNat_inj]
  simp only [BitVec.toNat_shiftLeft, BitVec.toNat_ushiftRight, Nat.shiftRight_eq_div_pow, Nat.shiftLeft_eq]
  omega

end

variable {bs : RawBlockSet}

theorem groupType_toNat (bs : RawBlockSet) : bs.groupType.toNat = bs.b.toNat / 4096 := cmdOp_toNat bs.b

theorem version_bit (bs : RawBlockSet) : bs.b.getLsbD 11 = decide (bs.b.toNat / 2048 % 2 = 1) := by
  rw [← BitVec.testBit_toNat, Nat.testBit_eq_decide_div_mod_eq]

theorem version_eq_a_iff : bs.version = .a ↔ bs.b.toNat / 2048 % 2 = 0 := by
  unfold RawBlockSet.version
  rw [version_bit]
  split <;> simp_all

theorem version_eq_b_iff : bs.version = .b ↔ bs.b.toNat / 2048 % 2 = 1 := by
  unfold RawBlockSet.version
  rw [version_bit]
  split <;> simp_all

/-! ### Which block sets fit a row -/

theorem wf_g2aRt_iff : (Instr.g2aRt bs).wf = true ↔ bs.groupType.toNat = 2 ∧ bs.version = .a := by
  rw [groupType_toNat, version_eq_a_iff]
  simp only [Instr.wf, Instr.armSet, Instr.row, Row.fits_iff, and_version_mask_eq_iff, BitVec.toNat_ofNat, Nat.reducePow,
    Nat.reduceMod, and_true]
  omega

theorem wf_g2bRt_iff : (Instr.g2bRt bs).wf = true ↔ bs.groupType.toNat = 2 ∧ bs.version = .b := by
  rw [groupType_toNat, version_eq_b_iff]
  simp only [Instr.wf, Instr.armSet, Instr.row, Row.fits_iff, and_version_mask_eq_iff, BitVec.toNat_ofNat, Nat.reducePow,
    Nat.reduceMod, and_true]
  omega

/-- A row that fixes the group alone fits the block sets of its group. -/
theorem wf_iff_groupType {i : Instr} {p : Word} (h : i.armSet = some bs)
    (hrow : i.row = { pattern := p, mask := 0xF000#16 }) (hp : p.toNat % 4096 = 0) :
    i.wf = true ↔ bs.groupType.toNat = p.toNat / 4096 := by
  simp only [Instr.wf, h, hrow, Row.fits_iff, and_group_mask_eq_iff, groupType_toNat, hp, and_true]

theorem wf_common (bs : RawBlockSet) : (Instr.common bs).wf = true := (Row.fits_iff _ _).mpr BitVec.and_zero

theorem wf_g0Di_iff : (Instr.g0Di bs).wf = true ↔ bs.groupType = 0#4 := by
  rw [wf_iff_groupType rfl rfl rfl, ← BitVec.toNat_inj]; rfl

/-! ### The rows of a block set -/

theorem encode_of_armSet {i : Instr} (h : i.armSet = some bs) : encode i = bs.words := by
  cases i <;> cases h <;> rfl

theorem decodeBlockSet_words (bs : RawBlockSet) : decodeBlockSet bs.words = some (bs, []) := rfl

theorem mem_rowsOf_iff {i : Instr} :
    i ∈ rowsOf bs ↔ i = groupRow bs ∨ (bs.groupType = 0#4 ∧ i = .g0Di bs) ∨ i = .common bs := by
  unfold rowsOf
  split <;> simp [*]

theorem armSet_of_mem_rowsOf {i : Instr} (h : i ∈ rowsOf bs) : i.armSet = some bs := by
  rcases mem_rowsOf_iff.mp h with rfl | ⟨-, rfl⟩ | rfl
  · exact groupRow_armSet bs
  · rfl
  · rfl

/-- Block B fits the row that the dispatch map gives it (R95). -/
theorem groupRow_wf (bs : RawBlockSet) : (groupRow bs).wf = true := by
  unfold groupRow
  split
  case h_3 h =>
    split
    next hv => exact wf_g2aRt_iff.mpr ⟨h, hv⟩
    next hv => exact wf_g2bRt_iff.mpr ⟨h, hv⟩
  case h_16 =>
    have h : bs.groupType.toNat = 15 := by
      have := bs.groupType.isLt
      simp only [imp_false] at *
      omega
    exact (wf_iff_groupType rfl rfl rfl).mpr h
  all_goals
    rename_i h
    exact (wf_iff_groupType rfl rfl rfl).mpr h

theorem wf_of_mem_rowsOf {i : Instr} (h : i ∈ rowsOf bs) : i.wf = true := by
  rcases mem_rowsOf_iff.mp h with rfl | ⟨hg, rfl⟩ | rfl
  · exact groupRow_wf bs
  · exact wf_g0Di_iff.mpr hg
  · exact wf_common bs

/-- The dispatch map finds the row that block B fits, the second row of group 0 and COMMON apart (R95). -/
theorem groupRow_of_wf {i : Instr} (h : i.armSet = some bs) (hwf : i.wf = true) (hdi : i ≠ .g0Di bs)
    (hcommon : i ≠ .common bs) : groupRow bs = i := by
  cases i <;> cases h
  case g0Di => exact absurd rfl hdi
  case common => exact absurd rfl hcommon
  case g2aRt =>
    obtain ⟨hg, hv⟩ := wf_g2aRt_iff.mp hwf
    simp [groupRow, hg, hv]
  case g2bRt =>
    obtain ⟨hg, hv⟩ := wf_g2bRt_iff.mp hwf
    simp [groupRow, hg, hv]
  all_goals
    have hg := (wf_iff_groupType rfl rfl rfl).mp hwf
    simp [groupRow, hg]

/-- A block-B row that fits is among the rows of its block set (R95; 90_conflicts.md C3). -/
theorem mem_rowsOf_of_wf {i : Instr} (h : i.armSet = some bs) (hwf : i.wf = true) : i ∈ rowsOf bs := by
  rw [mem_rowsOf_iff]
  by_cases hdi : i = .g0Di bs
  · subst hdi; exact .inr (.inl ⟨wf_g0Di_iff.mp hwf, rfl⟩)
  by_cases hcommon : i = .common bs
  · exact .inr (.inr hcommon)
  · exact .inl (groupRow_of_wf h hwf hdi hcommon).symm

/-! ### The obligations -/

/-- Settles O40: the dispatch map answers a row exactly where block B fits it, and G0_DI and COMMON stand beside it. -/
theorem rowsOfEncodeHoldTheRow : Obligations.RowsOfEncodeHoldTheRow := by
  refine ⟨fun i bs h hwf => ⟨?_, mem_rowsOf_of_wf h hwf⟩, fun i bs h => ?_⟩
  · rw [encode_of_armSet h, decodeBlockSet_words]
  · have harm := armSet_of_mem_rowsOf h
    exact ⟨wf_of_mem_rowsOf h, harm, encode_of_armSet harm⟩

/-- Settles O41: the command words are evaluated, and each block B fits the row that its group and version name. -/
theorem writtenOutWordsDecode : Obligations.WrittenOutWordsDecode := by
  refine ⟨rfl, rfl, decode_read_word [] 0x5F#8, rfl, fun a c d s0 s1 => ⟨?_, ?_, ?_⟩⟩
  · exact groupRow_of_wf rfl (wf_g2aRt_iff.mpr (by simp [groupType_toNat, version_eq_a_iff])) nofun nofun
  · exact groupRow_of_wf rfl (wf_g2bRt_iff.mpr (by simp [groupType_toNat, version_eq_b_iff])) nofun nofun
  · exact groupRow_of_wf rfl ((wf_iff_groupType rfl rfl rfl).mpr (by simp [groupType_toNat])) nofun nofun

end Sys2Proof
end

section
/-! PROOFS. The fetch and the encoding: one command a step (R85, R210) and the illegal words (R83). -/

namespace Sys2Proof.Machine

/-- No instruction faults or is refused (R211). -/
theorem exec_completes (i : Instr) (s : State) : ∃ t, exec i s = .next t := by
  cases i <;> exact ⟨_, rfl⟩

/-- A step with the words of a command pending runs the command on the state that has taken them (R85, R210). -/
theorem step_of_command {s : State} {i : Instr} {rest : List Word} (legal : s.cfg.legal = true)
    (h : decode s.pending = .ok (i, rest)) : step s = exec i ((s.withPending rest).withResponse none) := by
  unfold step fetch
  rw [if_pos legal, h]

/-- From a state without a response, exactly READ gives one (R80). -/
theorem exec_response_ne_none_iff {i : Instr} {s t : State} (h : exec i s = .next t) (hs : s.response = none) :
    t.response ≠ none ↔ ∃ addr, i = .read addr := by
  by_cases hread : ∃ addr, i = .read addr
  · obtain ⟨addr, rfl⟩ := hread
    rw [← exec_read_eq_next h, readRegister_response]
    exact iff_of_true nofun ⟨addr, rfl⟩
  · obtain ⟨-, -, hresponse⟩ := exec_samePort h fun addr e => hread ⟨addr, e⟩
    exact iff_of_false (fun ne => ne (hresponse.trans hs)) hread

/-- The step refuses as illegal what the decoder does (log 10). -/
theorem step_illegalCommand_iff {s : State} (legal : s.cfg.legal = true) :
    step s = .refused .illegalCommand ↔ decode s.pending = .error .illegalCommand := by
  rcases step_cases s with ⟨hl, -⟩ | ⟨-, hd, e⟩ | ⟨-, hd, e⟩ | ⟨-, hd, e⟩ | ⟨i, rest, -, hd, e⟩
  · rw [legal] at hl; cases hl
  · rw [hd, e]; exact iff_of_false nofun nofun
  · exact iff_of_true e hd
  · rw [hd, e]; exact iff_of_false nofun nofun
  · obtain ⟨t, ht⟩ := exec_completes i ((s.withPending rest).withResponse none)
    rw [hd, e, ht]; exact iff_of_false nofun nofun

/-! ### The obligations -/

/-- Settles O34: the command of the pending words runs with its words taken and no response, and answers a next state. -/
theorem stepPerformsOneWholeCommand : Obligations.StepPerformsOneWholeCommand := by
  intro s i rest legal hi hpending
  obtain ⟨t, ht⟩ := exec_completes i ((s.withPending rest).withResponse none)
  have hdecode : decode s.pending = .ok (i, rest) := by rw [hpending, decode_encode_append hi]
  refine ⟨t, (step_of_command legal hdecode).trans ht, ht, ?_, exec_response_ne_none_iff ht rfl⟩
  obtain ⟨-, hrest⟩ := exec_keeps_cfg_pending ht
  exact hrest

/-- Settles O37: the decoder calls illegal what is no legal word by R83's arithmetic, and the step refuses what the decoder does. -/
theorem illegalCommandWordsAreRefused : Obligations.IllegalCommandWordsAreRefused := by
  intro s w rest legal hpending
  refine ⟨?_, by rw [step_illegalCommand_iff legal, hpending]⟩
  rw [decode_eq_illegalCommand_iff, ← Bool.not_eq_true, legalCommand_iff]
  omega

end Sys2Proof.Machine
end

section
/-! PROOFS. UPDATE and the block-B rows (R95, R212): the one operation as its rows, one after the other. -/

namespace Sys2Proof.Machine

section
variable {bs : RawBlockSet} {s t : State}

/-! ### The dispatch map by group (R95) -/

theorem groupRow_of_group_zero (h : bs.groupType = 0#4) : groupRow bs = .g0PsDi bs := by simp [groupRow, h]

theorem groupRow_of_group_one (h : bs.groupType = 1#4) : groupRow bs = .g1SlPin bs := by simp [groupRow, h]

theorem groupRow_of_group_four (h : bs.groupType = 4#4) : groupRow bs = .g4Ct bs := by simp [groupRow, h]

theorem exec_groupRow_of_group_two (h : bs.groupType = 2#4) (s : State) :
    exec (groupRow bs) s = .next (whenStrict bs (textStep bs.version bs) s) := by
  cases hv : bs.version <;> simp [groupRow, h, hv] <;> rfl

/-- The groups without an arm (R193). -/
theorem groupRow_mem_ignoredRows (h0 : bs.groupType ≠ 0#4) (h1 : bs.groupType ≠ 1#4) (h2 : bs.groupType ≠ 2#4)
    (h4 : bs.groupType ≠ 4#4) : groupRow bs ∈ ignoredRows bs := by
  simp only [ne_eq, ← BitVec.toNat_inj] at h0 h1 h2 h4
  unfold groupRow
  split
  case h_1 h => exact absurd h h0
  case h_2 h => exact absurd h h1
  case h_3 h => exact absurd h h2
  case h_5 h => exact absurd h h4
  all_goals simp [ignoredRows]

theorem exec_ignoredRow {i : Instr} (h : i ∈ ignoredRows bs) (s : State) : exec i s = .next (ignoredGroup bs s) := by
  simp only [ignoredRows, List.mem_cons, List.not_mem_nil, or_false] at h
  rcases h with rfl | rfl | rfl | rfl | rfl | rfl | rfl | rfl | rfl | rfl | rfl | rfl <;> rfl

/-! ### Arms run twice -/

theorem diStep_diStep (bs : RawBlockSet) (s : State) : diStep bs (diStep bs s) = diStep bs s := by
  have h : ∀ r, setDiFlag bs (setDiFlag bs r) = setDiFlag bs r := fun r => by
    unfold setDiFlag; split <;> simp_all
  simp only [diStep, State.withRecord_record, h]; rfl

theorem commonStep_commonStep (bs : RawBlockSet) (s : State) : commonStep bs (commonStep bs s) = commonStep bs s := by
  simp only [commonStep_eq, State.withRecord_record, State.withRecord_cfg]
  split <;> simp_all [State.withRecord]

/-- A guarded arm that is idempotent and keeps the parameters is idempotent under its guard. -/
theorem whenStrict_whenStrict {f : State → State} (port : ∀ s, SamePort s (f s)) (idem : ∀ s, f (f s) = f s) :
    whenStrict bs f (whenStrict bs f s) = whenStrict bs f s := by
  obtain ⟨hcfg, -, -⟩ := port s
  cases hu : usableStrict s.cfg bs
  · simp only [whenStrict_of_unusable bs s hu]
  · rw [whenStrict_of_usable bs s hu, whenStrict_of_usable bs (f s) (hcfg ▸ hu), idem]

/-! ### Rows run in order -/

theorem execAll_cons {i : Instr} {is : List Instr} (h : exec i s = .next t) : execAll (i :: is) s = execAll is t := by
  simp only [execAll, h]

theorem execAll_singleton {i : Instr} (h : exec i s = .next t) : execAll [i] s = .next t := execAll_cons h

theorem rowsOf_of_group_zero (h : bs.groupType = 0#4) : rowsOf bs = [.g0PsDi bs, .g0Di bs, .common bs] := by
  rw [rowsOf, if_pos h, groupRow_of_group_zero h]

theorem rowsOf_of_group_ne_zero (h : bs.groupType ≠ 0#4) : rowsOf bs = [groupRow bs, .common bs] := by
  rw [rowsOf, if_neg h]

theorem unlessSkipped_of_skipped {f : State → State} (h : tickSkipped s.cfg bs = true) : unlessSkipped bs f s = s := by
  simp [unlessSkipped, h]

theorem unlessSkipped_of_not_skipped {f : State → State} (h : tickSkipped s.cfg bs = false) :
    unlessSkipped bs f s = f s := by
  simp [unlessSkipped, h]

theorem exec_common_of_not_skipped (h : tickSkipped s.cfg bs = false) :
    exec (.common bs) s = .next (whenStrict bs (commonStep bs) s) :=
  congrArg _ (unlessSkipped_of_not_skipped h)

theorem updateBlock_of_not_skipped (h : tickSkipped s.cfg bs = false) :
    updateBlock bs s = whenStrict bs (commonStep bs) (groupArms bs s) := by
  simp [updateBlock, h]

/-- Of a skipped UPDATE every row leaves the state (R141, R212). -/
theorem execAll_rowsOf_of_skipped (h0 : bs.groupType = 0#4) (h : tickSkipped s.cfg bs = true) :
    execAll (rowsOf bs) s = .next s := by
  have name : exec (.g0PsDi bs) s = .next s := congrArg _ (unlessSkipped_of_skipped h)
  have di : exec (.g0Di bs) s = .next s := congrArg _ (unlessSkipped_of_skipped h)
  have common : exec (.common bs) s = .next s := congrArg _ (unlessSkipped_of_skipped h)
  rw [rowsOf_of_group_zero h0, execAll_cons name, execAll_cons di, execAll_singleton common]

/-- The rows of group 0: G0_DI, which G0_PS_DI has run already, does nothing more (90_conflicts.md C3). -/
theorem execAll_rowsOf_of_group_zero (h0 : bs.groupType = 0#4) (h : tickSkipped s.cfg bs = false) :
    execAll (rowsOf bs) s = .next (whenStrict bs (commonStep bs) (groupArms bs s)) := by
  have arms : groupArms bs s = whenStrict bs (diStep bs) (whenName bs (nameStep bs) s) := by rw [groupArms, if_pos h0]
  have unskipped : tickSkipped (groupArms bs s).cfg bs = false := by
    obtain ⟨hcfg, -, -⟩ := groupArms_samePort bs s
    rw [hcfg, h]
  have first : exec (.g0PsDi bs) s = .next (groupArms bs s) :=
    congrArg _ ((unlessSkipped_of_not_skipped h).trans arms.symm)
  have again : whenStrict bs (diStep bs) (groupArms bs s) = groupArms bs s := by
    rw [arms, whenStrict_whenStrict (diStep_samePort bs) (diStep_diStep bs)]
  have second : exec (.g0Di bs) (groupArms bs s) = .next (groupArms bs s) :=
    congrArg _ ((unlessSkipped_of_not_skipped unskipped).trans again)
  rw [rowsOf_of_group_zero h0, execAll_cons first, execAll_cons second,
    execAll_singleton (exec_common_of_not_skipped unskipped)]

/-- The row of another group runs that group's arm of UPDATE, or none and then COMMON where the group has no arm (R193). -/
theorem exec_groupRow_cases (h0 : bs.groupType ≠ 0#4) (s : State) :
    exec (groupRow bs) s = .next (groupArms bs s) ∨
    (groupArms bs s = s ∧ exec (groupRow bs) s = .next (whenStrict bs (commonStep bs) s)) := by
  unfold groupArms
  rw [if_neg h0]
  split_ifs with h1 h2 h4
  · rw [groupRow_of_group_one h1]; exact .inl rfl
  · exact .inl (exec_groupRow_of_group_two h2 s)
  · rw [groupRow_of_group_four h4]; exact .inl rfl
  · exact .inr ⟨rfl, exec_ignoredRow (groupRow_mem_ignoredRows h0 h1 h2 h4) s⟩

/-- The rows of another group: COMMON follows the group's arm, or repeats what the row of a group without an arm did. -/
theorem execAll_rowsOf_of_group_ne_zero (h0 : bs.groupType ≠ 0#4) :
    execAll (rowsOf bs) s = .next (whenStrict bs (commonStep bs) (groupArms bs s)) := by
  have common : ∀ t, exec (.common bs) t = .next (whenStrict bs (commonStep bs) t) :=
    fun t => exec_common_of_not_skipped (tickSkipped_of_group bs h0)
  rw [rowsOf_of_group_ne_zero h0]
  rcases exec_groupRow_cases h0 s with h | ⟨arms, h⟩ <;> rw [execAll_cons h, execAll_singleton (common _)]
  rw [arms, whenStrict_whenStrict (commonStep_samePort bs) (commonStep_commonStep bs)]

/-- UPDATE is its rows, one after the other (R95, R212). -/
theorem execAll_rowsOf (bs : RawBlockSet) (s : State) : execAll (rowsOf bs) s = .next (updateBlock bs s) := by
  by_cases h0 : bs.groupType = 0#4
  · cases hskip : tickSkipped s.cfg bs
    · rw [updateBlock_of_not_skipped hskip, execAll_rowsOf_of_group_zero h0 hskip]
    · rw [updateBlock, if_pos hskip, execAll_rowsOf_of_skipped h0 hskip]
  · rw [updateBlock_of_not_skipped (tickSkipped_of_group bs h0), execAll_rowsOf_of_group_ne_zero h0]

end

/-! ### The obligations -/

/-- Settles O22: a skipped UPDATE skips every row; otherwise the rows run the group's arms and COMMON, and what a row
repeats is idempotent. -/
theorem updateRunsTheRowsOfItsBlockSet : Obligations.UpdateRunsTheRowsOfItsBlockSet :=
  fun s bs => ⟨(execAll_rowsOf bs s).symm, updateBlock bs s, rfl⟩

end Sys2Proof.Machine
end

section
/-! PROOFS. STATUS_DECODE (R86): the bounds of the error counts, and every function of the status words as an expression. -/

namespace Sys2Proof

/-! ### A function of the status words as an expression -/

/-- The branch that the status word `word` selects, looked for at `n - 1`, …, 0; the value 0 where it is none of them. -/
def StatusExpr.select (word : StatusWord) (branch : Word → StatusExpr) : Nat → StatusExpr
  | 0 => .lit 0
  | n + 1 => .ifEq (.field word 0 16) (.lit n) (branch (BitVec.ofNat 16 n)) (select word branch n)

/-- The function `f` of S0 and S1, as a table of its values. -/
def StatusExpr.ofFun (f : Word → Word → Nat) : StatusExpr :=
  .select .s0 (fun s0 => .select .s1 (fun s1 => .lit (f s0 s1)) (2 ^ 16)) (2 ^ 16)

section
variable {word : StatusWord} {branch : Word → StatusExpr} {f : Word → Word → Nat} {m n : Nat}

theorem StatusExpr.bound_select_le (h : ∀ w, (branch w).bound ≤ m) (n : Nat) :
    (StatusExpr.select word branch n).bound ≤ m := by
  induction n with
  | zero => exact Nat.zero_le m
  | succ n ih => exact max_le (h _) ih

theorem RawBlockSet.statusValue_select_succ (bs : RawBlockSet) :
    bs.statusValue (.select word branch (n + 1)) =
      if (bs.status word).toNat = n then bs.statusValue (branch (BitVec.ofNat 16 n))
      else bs.statusValue (.select word branch n) := by
  simp only [StatusExpr.select, RawBlockSet.statusValue, Nat.pow_zero, Nat.div_one,
    Nat.mod_eq_of_lt (bs.status word).isLt]

theorem RawBlockSet.statusValue_select (bs : RawBlockSet) (h : (bs.status word).toNat < n) :
    bs.statusValue (.select word branch n) = bs.statusValue (branch (bs.status word)) := by
  induction n with
  | zero => exact absurd h (Nat.not_lt_zero _)
  | succ n ih =>
    rw [statusValue_select_succ]
    split
    next heq => rw [← heq, BitVec.ofNat_toNat, BitVec.setWidth_eq]
    next hne => exact ih (by omega)

theorem StatusExpr.bound_ofFun_le (h : ∀ s0 s1, f s0 s1 ≤ m) : (StatusExpr.ofFun f).bound ≤ m :=
  bound_select_le (fun s0 => bound_select_le (h s0) _) _

theorem RawBlockSet.statusValue_ofFun (bs : RawBlockSet) : bs.statusValue (.ofFun f) = f bs.s0 bs.s1 := by
  rw [StatusExpr.ofFun, statusValue_select bs (BitVec.isLt _), statusValue_select bs (BitVec.isLt _)]; rfl

end

namespace Machine

/-! ### The error counts -/

section
variable {cfg : Config} {sync errAb errCd : StatusExpr}

theorem conforms_given_iff {errW : Nat} : (StatusDecode.given sync errAb errCd).conforms errW = true ↔
    sync.bound ≤ 1 ∧ errAb.bound < 2 ^ errW ∧ errCd.bound < 2 ^ errW := by
  simp only [StatusDecode.conforms, Bool.and_eq_true, decide_eq_true_eq, and_assoc]

/-- Both error counts are below 2^ERR_W in a legal configuration (R86). -/
theorem errCounts_lt (bs : RawBlockSet) (h : cfg.statusDecode.conforms cfg.errW = true) :
    errAbOf cfg bs < 2 ^ cfg.errW ∧ errCdOf cfg bs < 2 ^ cfg.errW := by
  unfold errAbOf errCdOf
  cases hd : cfg.statusDecode with
  | given sync errAb errCd =>
    obtain ⟨-, hab, hcd⟩ := conforms_given_iff.mp (hd ▸ h)
    exact ⟨(statusValue_le_bound bs errAb).trans_lt hab, (statusValue_le_bound bs errCd).trans_lt hcd⟩
  | other tuner => exact ⟨Nat.mod_lt _ (Nat.two_pow_pos _), Nat.mod_lt _ (Nat.two_pow_pos _)⟩

theorem syncOf_given (bs : RawBlockSet) :
    syncOf { cfg with statusDecode := .given sync errAb errCd } bs = decide (bs.statusValue sync = 1) := rfl

theorem errAbOf_given (bs : RawBlockSet) :
    errAbOf { cfg with statusDecode := .given sync errAb errCd } bs = bs.statusValue errAb := rfl

theorem errCdOf_given (bs : RawBlockSet) :
    errCdOf { cfg with statusDecode := .given sync errAb errCd } bs = bs.statusValue errCd := rfl

/-- Another STATUS_DECODE that conforms keeps a configuration legal. -/
theorem legal_withStatusDecode {d : StatusDecode} (h : cfg.legal = true) (hd : d.conforms cfg.errW = true) :
    { cfg with statusDecode := d }.legal = true := by
  obtain ⟨h1, h2, h3, h4, h5, h6, -⟩ := (legal_iff cfg).mp h
  exact (legal_iff _).mpr ⟨h1, h2, h3, h4, h5, h6, hd⟩

end

/-! ### The obligations -/

/-- Settles O9, from the bounds of the expressions and of the other tuners' counts. -/
theorem errorCountsAreBounded : Obligations.ErrorCountsAreBounded := by
  intro cfg bs legal
  obtain ⟨-, -, -, -, -, -, hconforms⟩ := (legal_iff cfg).mp legal
  obtain ⟨hab, hcd⟩ := errCounts_lt bs hconforms
  refine ⟨hab, hcd, rfl, ?_⟩
  unfold esum; omega

/-- Settles O45: each function is the expression that selects its value by S0 and then by S1. -/
theorem everyStatusDecodeCanBeSupplied : Obligations.EveryStatusDecodeCanBeSupplied := by
  intro cfg sync errAb errCd legal hab hcd
  have below : ∀ {f : Word → Word → Nat}, (∀ s0 s1, f s0 s1 < 2 ^ cfg.errW) →
      (StatusExpr.ofFun f).bound < 2 ^ cfg.errW := fun h =>
    Nat.lt_of_le_pred (Nat.two_pow_pos _) (StatusExpr.bound_ofFun_le fun s0 s1 => Nat.le_pred_of_lt (h s0 s1))
  have conforms : (StatusDecode.given (.ofFun fun s0 s1 => (sync s0 s1).toNat) (.ofFun errAb) (.ofFun errCd)).conforms
      cfg.errW = true :=
    conforms_given_iff.mpr ⟨StatusExpr.bound_ofFun_le fun s0 s1 => Bool.toNat_le (sync s0 s1), below hab, below hcd⟩
  refine ⟨_, legal_withStatusDecode legal conforms, fun bs => ⟨?_, ?_, ?_⟩⟩
  · rw [syncOf_given, bs.statusValue_ofFun]; cases sync bs.s0 bs.s1 <;> rfl
  · rw [errAbOf_given, bs.statusValue_ofFun]
  · rw [errCdOf_given, bs.statusValue_ofFun]

end Machine

end Sys2Proof
end

section
/-! PROOFS. The quality gate (R124 to R129): the verdicts from the status words, and what a block set leaves unchanged that
fails one. -/

namespace Sys2Proof.Machine

section
variable {cfg : Config} {bs : RawBlockSet} {i : Instr} {s : State}

/-! ### The verdicts under the default STATUS_DECODE (R86) -/

/-- A field expression is that bit field of its status word. -/
theorem statusValue_field (word : StatusWord) (lo width : Nat) :
    bs.statusValue (.field word lo width) = ((bs.status word).extractLsb' lo width).toNat := by
  rw [RawBlockSet.statusValue, BitVec.extractLsb'_toNat, Nat.shiftRight_eq_div_pow]

theorem syncOf_rda5807m (h : cfg.statusDecode = .rda5807m) : syncOf cfg bs = bs.s0.getLsbD 12 := by
  rw [syncOf, h, ← BitVec.testBit_toNat, Nat.testBit_eq_decide_div_mod_eq]; rfl

theorem errAbOf_rda5807m (h : cfg.statusDecode = .rda5807m) : errAbOf cfg bs = (bs.s1.extractLsb' 2 2).toNat := by
  rw [errAbOf, h]; exact statusValue_field .s1 2 2

theorem errCdOf_rda5807m (h : cfg.statusDecode = .rda5807m) : errCdOf cfg bs = (bs.s1.extractLsb' 0 2).toNat := by
  rw [errCdOf, h]; exact statusValue_field .s1 0 2

/-- The strict verdict is the stronger one where its threshold is the lower one (R125). -/
theorem usableName_of_usableStrict (hmax : cfg.strictErrMax ≤ cfg.nameErrMax) (h : usableStrict cfg bs = true) :
    usableName cfg bs = true := by
  obtain ⟨hsync, hsum⟩ := (usableStrict_iff cfg bs).mp h
  exact (usableName_iff cfg bs).mpr ⟨hsync, hsum.trans hmax⟩

/-! ### Rows on a block set that fails a verdict (R127 to R129) -/

theorem unlessSkipped_of_eq_self {f : State → State} (h : f s = s) : unlessSkipped bs f s = s := by
  unfold unlessSkipped; split
  · rfl
  · exact h

/-- Only a block set with the name verdict can be skipped whole (R141). -/
theorem tickSkipped_of_not_usableName (h : usableName cfg bs = false) : tickSkipped cfg bs = false := by
  simp [tickSkipped, h]

/-- Without the strict verdict no row but G0_PS_DI has an effect (R127). -/
theorem exec_row_of_not_usableStrict (hrow : i.armSet = some bs) (hname : i ≠ .g0PsDi bs)
    (h : usableStrict s.cfg bs = false) : exec i s = .next s := by
  have skip : ∀ f : State → State, whenStrict bs f s = s := fun f => whenStrict_of_unusable bs s h
  cases i with
  | nop | update | reset | read => cases hrow
  | g0PsDi => cases hrow; exact absurd rfl hname
  | g0Di | common => cases hrow; exact congrArg _ (unlessSkipped_of_eq_self (skip _))
  | g1SlPin | g2aRt | g2bRt | g4Ct | g3Ignored | g5Ignored | g6Ignored | g7Ignored | g8Ignored | g9Ignored
  | g10Ignored | g11Ignored | g12Ignored | g13Ignored | g14Ignored | g15Ignored =>
    cases hrow; exact congrArg _ (skip _)

/-- Without the name verdict G0_PS_DI is its second arm, G0_DI (R127, R140). -/
theorem exec_g0PsDi_of_not_usableName (h : usableName s.cfg bs = false) : exec (.g0PsDi bs) s = exec (.g0Di bs) s := by
  have unskipped := tickSkipped_of_not_usableName h
  refine congrArg Host.Outcome.next ?_
  rw [unlessSkipped_of_not_skipped unskipped, unlessSkipped_of_not_skipped unskipped, whenName_of_unusable bs s h]

/-- Without either verdict no row has an effect (R129). -/
theorem exec_row_of_unusable (hrow : i.armSet = some bs) (hname : usableName s.cfg bs = false)
    (hstrict : usableStrict s.cfg bs = false) : exec i s = .next s := by
  by_cases hi : i = .g0PsDi bs
  · rw [hi, exec_g0PsDi_of_not_usableName hname]
    exact exec_row_of_not_usableStrict rfl nofun hstrict
  · exact exec_row_of_not_usableStrict hrow hi hstrict

theorem execAll_of_forall_eq_self {is : List Instr} (h : ∀ i ∈ is, exec i s = .next s) :
    execAll is s = .next s := by
  induction is with
  | nil => rfl
  | cons i is ih =>
    rw [execAll_cons (h i List.mem_cons_self)]
    exact ih fun j hj => h j (List.mem_cons_of_mem i hj)

/-- Without either verdict UPDATE has no effect, since none of its rows has one (R129). -/
theorem exec_update_of_unusable (hname : usableName s.cfg bs = false) (hstrict : usableStrict s.cfg bs = false) :
    exec (.update bs) s = .next s :=
  (execAll_rowsOf bs s).symm.trans
    (execAll_of_forall_eq_self fun _ hi => exec_row_of_unusable (armSet_of_mem_rowsOf hi) hname hstrict)

/-- G0_DI keeps the name elements, since it does not run NAME_STEP (R180). -/
theorem exec_g0Di_keeps_name {t : State} (h : exec (.g0Di bs) s = .next t) :
    t.name = s.name ∧ t.record.accName = s.record.accName := by
  have notName : ∀ bs', ¬ RunsName (.g0Di bs) bs' := fun _ => by simp [RunsName]
  have keeps := (exec_effect h).samePart_or_writes nofun
  exact ⟨(keeps .name).resolve_right fun ⟨_, runs, _⟩ => notName _ runs,
    (keeps .accName).resolve_right fun ⟨_, runs, _⟩ => notName _ runs⟩

end

/-! ### The obligations -/

/-- Settles O8, from the verdicts as propositions and the three fields of the default STATUS_DECODE. -/
theorem gateVerdictsFromTheStatusWords : Obligations.GateVerdictsFromTheStatusWords :=
  ⟨fun cfg bs => ⟨usableName_iff cfg bs, usableStrict_iff cfg bs, usableName_of_usableStrict⟩,
    fun _ _ h => ⟨syncOf_rda5807m h, errAbOf_rda5807m h, errCdOf_rda5807m h⟩⟩

/-- Settles O10: without sync both verdicts fail. -/
theorem blockSetWithoutSyncChangesNothing : Obligations.BlockSetWithoutSyncChangesNothing := by
  intro s i bs hi hsync
  obtain ⟨hname, hstrict⟩ := unusable_of_no_sync bs hsync
  rcases hi with rfl | hrow
  · exact exec_update_of_unusable hname hstrict
  · exact exec_row_of_unusable hrow hname hstrict

/-- Settles O11, from what a row and UPDATE do without a verdict. -/
theorem unusableBlockSetsLeaveNoTrace : Obligations.UnusableBlockSetsLeaveNoTrace :=
  fun _ _ _ hrow hstrict => ⟨fun hi => exec_row_of_not_usableStrict hrow hi hstrict,
    fun hname => ⟨exec_row_of_unusable hrow hname hstrict, exec_update_of_unusable hname hstrict⟩⟩

/-- Settles O12: G0_PS_DI is then G0_DI, which writes no name. -/
theorem nameStepNeedsTheNameVerdict : Obligations.NameStepNeedsTheNameVerdict := by
  intro s bs hname
  obtain ⟨t, ht⟩ := exec_completes (.g0Di bs) s
  exact ⟨t, (exec_g0PsDi_of_not_usableName hname).trans ht, ht, exec_g0Di_keeps_name ht⟩

end Sys2Proof.Machine
end

section
/-! PROOFS. UPDATE repeated (R130): its arms are idempotent and commute, so it is idempotent. -/

namespace Sys2Proof.Machine

section
variable {bs : RawBlockSet} {f g : State → State}

/-! ### Guarded arms -/

/-- An arm under a guard on the parameters commutes with what it commutes with without the guard. -/
theorem ite_cfg_commute (p : Config → Bool) (port : ∀ s, SamePort s (g s)) (h : Function.Commute f g) :
    Function.Commute (fun s => if p s.cfg then f s else s) g := by
  intro s
  obtain ⟨hcfg, -, -⟩ := port s
  simp only [hcfg]
  split
  · exact h s
  · rfl

theorem whenStrict_commute (port : ∀ s, SamePort s (g s)) (h : Function.Commute f g) :
    Function.Commute (whenStrict bs f) g :=
  ite_cfg_commute (usableStrict · bs) port h

theorem whenName_commute (port : ∀ s, SamePort s (g s)) (h : Function.Commute f g) :
    Function.Commute (whenName bs f) g :=
  ite_cfg_commute (usableName · bs) port h

theorem whenName_whenName (port : ∀ s, SamePort s (f s)) (idem : ∀ s, f (f s) = f s) (s : State) :
    whenName bs f (whenName bs f s) = whenName bs f s := by
  obtain ⟨hcfg, -, -⟩ := port s
  cases hu : usableName s.cfg bs
  · simp only [whenName_of_unusable bs s hu]
  · rw [whenName_of_usable bs s hu, whenName_of_usable bs (f s) (hcfg ▸ hu), idem]

/-- One after the other, commuting idempotent operations are idempotent. -/
theorem idempotent_of_commute (h : Function.Commute f g) (hf : ∀ s, f (f s) = f s) (hg : ∀ s, g (g s) = g s)
    (s : State) : f (g (f (g s))) = f (g s) := by
  rw [← h, hf, hg]

/-! ### Arms run twice -/

theorem writeNameFragment_writeNameFragment (bs : RawBlockSet) (s : State) :
    writeNameFragment bs (writeNameFragment bs s) = writeNameFragment bs s := by
  simp only [writeNameFragment, State.withName_name, setPair_setPair]; rfl

/-- A fragment is no wrap after itself (R142). -/
theorem nameWrap_writeNameFragment (bs : RawBlockSet) (s : State) :
    nameWrap bs (writeNameFragment bs s).name = false :=
  decide_eq_false (Nat.lt_irrefl bs.seg2.toNat)

theorem nameStep_nameStep (bs : RawBlockSet) (s : State) : nameStep bs (nameStep bs s) = nameStep bs s := by
  obtain ⟨hcfg, -, -⟩ := nameStep_samePort bs s
  rcases nameStep_cases bs s with ⟨-, e⟩ | ⟨ha, -, e⟩ | ⟨ha, -, e⟩
  · rw [e, e]
  all_goals
    rw [nameStep, hcfg, if_pos ha, e, nameWrap_writeNameFragment, if_neg Bool.false_ne_true,
      writeNameFragment_writeNameFragment]

/-- The same index again is no wrap, and the same A/B flag no toggle (R162, R167). -/
theorem textStep_textStep (ver : Version) (bs : RawBlockSet) (s : State) :
    textStep ver bs (textStep ver bs s) = textStep ver bs s := by
  have noWrap : textWrap bs (textStep ver bs s).text = false := by simp [textStep_eq, textWrap]
  have noToggle : textToggled bs (textStep ver bs s).text = false := by simp [textStep_eq, textToggled]
  rw [textStep_eq bs (textStep ver bs s), noWrap, noToggle, Bool.or_false, if_neg Bool.false_ne_true, textStep_eq]
  simp only [State.withText_text, textFragment_textFragment]; rfl

theorem slowLabelStep_slowLabelStep (bs : RawBlockSet) (s : State) :
    slowLabelStep bs (slowLabelStep bs s) = slowLabelStep bs s := rfl

theorem clockStep_clockStep (bs : RawBlockSet) (s : State) : clockStep bs (clockStep bs s) = clockStep bs s := by
  unfold clockStep; split <;> rfl

/-! ### Arms that write different elements commute (R213) -/

section
variable {m : Record → Record} (h : ∀ r a, m { r with accName := a } = { m r with accName := a })
include h

/-- A change of the Record that keeps away from `acc_name` commutes with a wrap, which reads nothing of the Record. -/
theorem validateSweep_withRecord (s : State) :
    validateSweep (s.withRecord (m s.record)) = (validateSweep s).withRecord (m (validateSweep s).record) := by
  by_cases equal : s.name.rxName = s.name.candName
  · by_cases last : s.cfg.validity ≤ s.name.nameCycles.toNat + 1
    · simp only [validateSweep, State.withRecord_cfg, State.withRecord_name, equal, last, if_true]
      exact congrArg (fun r => (s.withRecord r).withName _) (h s.record s.name.candName).symm
    · simp only [validateSweep, State.withRecord_cfg, State.withRecord_name, equal, last, if_true, if_false]; rfl
  · simp only [validateSweep, State.withRecord_name, equal, if_false]; rfl

/-- A change of the Record that keeps away from `acc_name` commutes with NAME_STEP. -/
theorem nameStep_withRecord (bs : RawBlockSet) (s : State) :
    nameStep bs (s.withRecord (m s.record)) = (nameStep bs s).withRecord (m (nameStep bs s).record) := by
  simp only [nameStep, State.withRecord_cfg, State.withRecord_name, validateSweep_withRecord h]
  cases pairAccepted s.cfg bs.d
  · rfl
  · cases nameWrap bs s.name <;> rfl

end

/-- What COMMON makes of the Record (R190 to R192). -/
def commonRecord (cfg : Config) (bs : RawBlockSet) (r : Record) : Record :=
  setTaMs cfg bs { r with
    country := bs.country
    area := bs.area
    ref := bs.ref
    pty := bs.pty
    tp := bs.tp
    version := bs.version }

theorem commonStep_eq_withRecord (bs : RawBlockSet) (s : State) :
    commonStep bs s = s.withRecord (commonRecord s.cfg bs s.record) := rfl

theorem nameStep_commute_diStep (bs : RawBlockSet) : Function.Commute (nameStep bs) (diStep bs) := by
  refine nameStep_withRecord (fun r a => ?_) bs
  unfold setDiFlag; split <;> rfl

theorem nameStep_commute_commonStep (bs : RawBlockSet) : Function.Commute (nameStep bs) (commonStep bs) := by
  intro s
  obtain ⟨hcfg, -, -⟩ := nameStep_samePort bs s
  rw [commonStep_eq_withRecord, commonStep_eq_withRecord, hcfg]
  refine nameStep_withRecord (fun r a => ?_) bs s
  unfold commonRecord setTaMs; split <;> rfl

theorem diStep_commute_commonStep (bs : RawBlockSet) : Function.Commute (diStep bs) (commonStep bs) := by
  intro s
  refine congrArg s.withRecord ?_
  change setDiFlag bs (commonRecord s.cfg bs s.record) = commonRecord s.cfg bs (setDiFlag bs s.record)
  unfold setDiFlag commonRecord setTaMs
  split <;> split <;> rfl

theorem slowLabelStep_commute_commonStep (bs : RawBlockSet) : Function.Commute (slowLabelStep bs) (commonStep bs) := by
  intro s
  simp only [commonStep_eq]; rfl

theorem textStep_commute_commonStep (ver : Version) (bs : RawBlockSet) :
    Function.Commute (textStep ver bs) (commonStep bs) := by
  intro s
  simp only [commonStep_eq, textStep_eq]; rfl

theorem clockStep_commute_commonStep (bs : RawBlockSet) : Function.Commute (clockStep bs) (commonStep bs) := by
  intro s
  unfold clockStep
  split
  · simp only [commonStep_eq]; rfl
  · rfl

/-! ### UPDATE -/

theorem groupArms_groupArms (bs : RawBlockSet) (s : State) : groupArms bs (groupArms bs s) = groupArms bs s := by
  unfold groupArms
  split_ifs
  · exact idempotent_of_commute
      (whenStrict_commute (whenName_samePort bs · (nameStep_samePort bs))
        (whenName_commute (diStep_samePort bs) (nameStep_commute_diStep bs)).symm)
      (fun _ => whenStrict_whenStrict (diStep_samePort bs) (diStep_diStep bs))
      (whenName_whenName (nameStep_samePort bs) (nameStep_nameStep bs)) s
  · exact whenStrict_whenStrict (slowLabelStep_samePort bs) (slowLabelStep_slowLabelStep bs)
  · exact whenStrict_whenStrict (textStep_samePort bs · _) (textStep_textStep _ bs)
  · exact whenStrict_whenStrict (clockStep_samePort bs) (clockStep_clockStep bs)
  · rfl

/-- The arm of a group and COMMON write different elements (R213). -/
theorem groupArms_commute_commonStep (bs : RawBlockSet) : Function.Commute (groupArms bs) (commonStep bs) := by
  have port := commonStep_samePort bs
  intro s
  unfold groupArms
  split_ifs
  · exact (whenStrict_commute port (diStep_commute_commonStep bs)).comp_left
      (whenName_commute port (nameStep_commute_commonStep bs)) s
  · exact whenStrict_commute port (slowLabelStep_commute_commonStep bs) s
  · exact whenStrict_commute port (textStep_commute_commonStep _ bs) s
  · exact whenStrict_commute port (clockStep_commute_commonStep bs) s
  · rfl

/-- UPDATE of one block set is idempotent (R130). -/
theorem updateBlock_updateBlock (bs : RawBlockSet) (s : State) :
    updateBlock bs (updateBlock bs s) = updateBlock bs s := by
  obtain ⟨hcfg, -, -⟩ := updateBlock_samePort bs s
  cases hskip : tickSkipped s.cfg bs
  · rw [updateBlock_of_not_skipped (hcfg ▸ hskip), updateBlock_of_not_skipped hskip]
    exact idempotent_of_commute
      (whenStrict_commute (groupArms_samePort bs) (groupArms_commute_commonStep bs).symm)
      (fun _ => whenStrict_whenStrict (commonStep_samePort bs) (commonStep_commonStep bs)) (groupArms_groupArms bs) s
  · have skipped : updateBlock bs s = s := if_pos hskip
    rw [skipped, skipped]

end

/-! ### The obligations -/

/-- Settles O24, from UPDATE's idempotence: its arms are idempotent and commute. -/
theorem repeatedUpdateChangesNothing : Obligations.RepeatedUpdateChangesNothing := by
  intro s t bs h
  obtain rfl : updateBlock bs s = t := Host.Outcome.next.inj h
  exact congrArg Host.Outcome.next (updateBlock_updateBlock bs s)

end Sys2Proof.Machine
end

section
/-! PROOFS. One name fragment (R141 to R145): a rejected pair leaves the name, an accepted one has four outcomes. -/

namespace Sys2Proof.Machine

section
variable {bs : RawBlockSet} {s t : State}

/-! ### A rejected pair (R141) -/

theorem pairAccepted_eq_false {cfg : Config} {d : Word}
    (h : (d.extractLsb' 8 8).toNat < cfg.nameCharMin ∨ cfg.nameCharMax < (d.extractLsb' 8 8).toNat ∨
      (d.extractLsb' 0 8).toNat < cfg.nameCharMin ∨ cfg.nameCharMax < (d.extractLsb' 0 8).toNat) :
    pairAccepted cfg d = false := by
  rw [← Bool.not_eq_true, pairAccepted_iff]
  rintro ⟨⟨hi_min, hi_max⟩, lo_min, lo_max⟩
  omega

theorem whenName_nameStep_of_rejected (h : pairAccepted s.cfg bs.d = false) : whenName bs (nameStep bs) s = s := by
  have step : nameStep bs s = s := by simp [nameStep, h]
  unfold whenName; split
  · exact step
  · rfl

theorem exec_g0PsDi_of_rejected (h : pairAccepted s.cfg bs.d = false) : exec (.g0PsDi bs) s = exec (.g0Di bs) s := by
  refine congrArg Host.Outcome.next ?_
  simp only [unlessSkipped, whenName_nameStep_of_rejected h]

/-- The name elements and the text accumulator have no writer in the UPDATE of a rejected pair (R141). -/
theorem exec_update_keeps_of_rejected (h0 : bs.groupType = 0#4) (rejected : pairAccepted s.cfg bs.d = false)
    (h : exec (.update bs) s = .next t) :
    t.name = s.name ∧ t.text = s.text ∧ t.record.accName = s.record.accName := by
  have notAccepted : ∀ bs', RunsName (.update bs) bs' → pairAccepted s.cfg bs'.d ≠ true := by
    rintro _ (⟨⟨⟩, -⟩ | ⟨⟨⟩⟩)
    simp [rejected]
  have notText : ∀ bs', ¬ RunsText (.update bs) bs' := by
    rintro _ (⟨⟨⟩, h2⟩ | ⟨⟨⟩⟩ | ⟨⟨⟩⟩)
    rw [h0] at h2; cases h2
  have keeps := (exec_effect h).samePart_or_writes nofun
  exact ⟨(keeps .name).resolve_right fun ⟨bs', runs, _, accepted⟩ => notAccepted bs' runs accepted,
    (keeps .text).resolve_right fun ⟨bs', runs, _⟩ => notText bs' runs,
    (keeps .accName).resolve_right fun ⟨bs', runs, _, accepted, _⟩ => notAccepted bs' runs accepted⟩

theorem groupArms_of_group_zero (h0 : bs.groupType = 0#4) (s : State) :
    groupArms bs s = whenStrict bs (diStep bs) (whenName bs (nameStep bs) s) := by
  rw [groupArms, if_pos h0]

theorem exec_g0Di_of_not_skipped (h : tickSkipped s.cfg bs = false) :
    exec (.g0Di bs) s = .next (whenStrict bs (diStep bs) s) :=
  congrArg _ (unlessSkipped_of_not_skipped h)

/-- What is left of the UPDATE of a rejected pair that is not skipped: the DI flag and the common fields (R141). -/
theorem exec_update_of_rejected (h0 : bs.groupType = 0#4) (rejected : pairAccepted s.cfg bs.d = false)
    (unskipped : tickSkipped s.cfg bs = false) : exec (.update bs) s = execAll [.g0Di bs, .common bs] s := by
  have di : exec (.g0Di bs) s = .next (groupArms bs s) := by
    rw [exec_g0Di_of_not_skipped unskipped, groupArms_of_group_zero h0, whenName_nameStep_of_rejected rejected]
  have unskipped' : tickSkipped (groupArms bs s).cfg bs = false := by
    obtain ⟨hcfg, -, -⟩ := groupArms_samePort bs s
    rw [hcfg, unskipped]
  rw [execAll_cons di, execAll_singleton (exec_common_of_not_skipped unskipped')]
  exact congrArg _ (updateBlock_of_not_skipped unskipped)

/-! ### An accepted pair (R142 to R145) -/

/-- `s` after an accepted fragment that leaves the candidate `cand`, the counter `k` and the accepted name `acc`: the
fragment is written and its index kept (R145). -/
def afterFragment (bs : RawBlockSet) (s : State) (cand : List Byte) (k : BitVec 8) (acc : List Byte) : State :=
  { s with
    name := { rxName := setPair s.name.rxName bs.namePos bs.d, candName := cand, nameCycles := k, nameLastOff := bs.seg2 }
    record := { s.record with accName := acc } }

/-- The four outcomes of an accepted fragment: no wrap, or a wrap after a changed sweep, after an equal one below
VALIDITY, or after the VALIDITY-th (R142 to R145). -/
theorem nameStep_accepted_cases (accepted : pairAccepted s.cfg bs.d = true) :
    (s.name.nameLastOff.toNat ≤ bs.seg2.toNat ∧
      nameStep bs s = afterFragment bs s s.name.candName s.name.nameCycles s.record.accName) ∨
    (bs.seg2.toNat < s.name.nameLastOff.toNat ∧ s.name.rxName ≠ s.name.candName ∧
      nameStep bs s = afterFragment bs s s.name.rxName 0#8 s.record.accName) ∨
    (bs.seg2.toNat < s.name.nameLastOff.toNat ∧ s.name.rxName = s.name.candName ∧
      s.name.nameCycles.toNat + 1 < s.cfg.validity ∧
      nameStep bs s = afterFragment bs s s.name.candName (s.name.nameCycles + 1#8) s.record.accName) ∨
    (bs.seg2.toNat < s.name.nameLastOff.toNat ∧ s.name.rxName = s.name.candName ∧
      s.cfg.validity ≤ s.name.nameCycles.toNat + 1 ∧
      nameStep bs s = afterFragment bs s s.name.candName 0#8 s.name.rxName) := by
  rcases nameStep_cases bs s with ⟨rejected, -⟩ | ⟨-, noWrap, e⟩ | ⟨-, wrap, e⟩
  · rw [accepted] at rejected; cases rejected
  · exact .inl ⟨Nat.le_of_not_lt (of_decide_eq_false noWrap), e⟩
  · have wrap := (nameWrap_iff bs s.name).mp wrap
    rcases validateSweep_cases s with ⟨changed, v⟩ | ⟨equal, below, v⟩ | ⟨equal, last, v⟩ <;> rw [v] at e
    · exact .inr (.inl ⟨wrap, changed, e⟩)
    · exact .inr (.inr (.inl ⟨wrap, equal, below, e⟩))
    · exact .inr (.inr (.inr ⟨wrap, equal, last, e⟩))

/-- The counter does not overflow while it stays below a legal VALIDITY (R9). -/
theorem toNat_nameCycles_add_one (legal : s.cfg.legal = true) (below : s.name.nameCycles.toNat + 1 < s.cfg.validity) :
    (s.name.nameCycles + 1#8).toNat = s.name.nameCycles.toNat + 1 := by
  obtain ⟨-, hvalidity, -⟩ := (legal_iff s.cfg).mp legal
  simp only [BitVec.toNat_add, BitVec.toNat_ofNat]; omega

/-- Every byte of `rx_name` after a fragment is written (R145). -/
theorem getByte_setPair_namePos (legal : s.cfg.legal = true) (sized : s.Sized) (bs : RawBlockSet) (i : Nat) :
    getByte (setPair s.name.rxName bs.namePos bs.d) i =
      if i = 2 * bs.seg2.toNat then hiByte bs.d else if i = 2 * bs.seg2.toNat + 1 then loByte bs.d
      else getByte s.name.rxName i := by
  obtain ⟨-, -, -, -, hlen, -⟩ := (legal_iff s.cfg).mp legal
  have := namePos_lt bs
  exact getByte_setPair _ _ _ _ (by rw [sized.rxName]; omega)

/-- The row of an accepted pair is NAME_STEP and then the row G0_DI (R140, 90_conflicts.md C3). -/
theorem exec_g0PsDi_of_accepted (usable : usableName s.cfg bs = true) (accepted : pairAccepted s.cfg bs.d = true) :
    exec (.g0PsDi bs) s = exec (.g0Di bs) (nameStep bs s) := by
  have unskipped := tickSkipped_of_accepted s.cfg bs accepted
  obtain ⟨hcfg, -, -⟩ := nameStep_samePort bs s
  rw [exec_g0Di_of_not_skipped (hcfg ▸ unskipped)]
  refine congrArg Host.Outcome.next ?_
  rw [unlessSkipped_of_not_skipped unskipped, whenName_of_usable bs s usable]

end

/-! ### The obligations -/

/-- Settles O14: NAME_STEP leaves the state, so the name has no writer, and what is left of the row is G0_DI. -/
theorem rejectedNamePairChangesNoName : Obligations.RejectedNamePairChangesNoName := by
  intro s bs h0 outside
  have rejected := pairAccepted_eq_false outside
  obtain ⟨t, ht⟩ := exec_completes (.update bs) s
  refine ⟨⟨t, ht, exec_update_keeps_of_rejected h0 rejected ht⟩, fun skips usable => ?_, fun runs => ⟨?_, ?_⟩⟩
  · have skipped : tickSkipped s.cfg bs = true := by
      simp [tickSkipped, skips, usable, rejected, RawBlockSet.groupType, h0]
    exact congrArg _ (if_pos skipped)
  · exact exec_update_of_rejected h0 rejected (by simp [tickSkipped, runs])
  · exact exec_g0PsDi_of_rejected rejected

/-- Settles O15: each clause is one of the four outcomes of NAME_STEP, and the row goes on as G0_DI does. -/
theorem nameFragmentIsValidatedAndWritten : Obligations.NameFragmentIsValidatedAndWritten := by
  intro s bs legal sized usable hi_min hi_max lo_min lo_max
  have accepted := (pairAccepted_iff s.cfg bs.d).mpr ⟨⟨hi_min, hi_max⟩, lo_min, lo_max⟩
  obtain ⟨t, ht⟩ := exec_completes (.g0Di bs) (nameStep bs s)
  have row : exec (.g0PsDi bs) s = .next t := (exec_g0PsDi_of_accepted usable accepted).trans ht
  have length := (length_setPair s.name.rxName bs.namePos bs.d).trans sized.rxName
  have bytes := getByte_setPair_namePos legal sized bs
  rcases nameStep_accepted_cases accepted with
    ⟨noWrap, e⟩ | ⟨wrap, changed, e⟩ | ⟨wrap, equal, below, e⟩ | ⟨wrap, equal, last, e⟩ <;> rw [e] at ht
  · exact ⟨_, _, _, _, t, length, fun i _ => bytes i, fun _ => ⟨rfl, rfl, rfl⟩, fun w => absurd noWrap w.not_ge,
      fun w => absurd noWrap w.not_ge, fun w => absurd noWrap w.not_ge, row, ht⟩
  · exact ⟨_, _, _, _, t, length, fun i _ => bytes i, fun n => absurd n wrap.not_ge, fun _ _ => ⟨rfl, rfl, rfl⟩,
      fun _ e => absurd e changed, fun _ e => absurd e changed, row, ht⟩
  · exact ⟨_, _, _, _, t, length, fun i _ => bytes i, fun n => absurd n wrap.not_ge, fun _ ne => absurd equal ne,
      fun _ _ _ => ⟨rfl, toNat_nameCycles_add_one legal below, rfl⟩, fun _ _ h => absurd h below.not_ge, row, ht⟩
  · exact ⟨_, _, _, _, t, length, fun i _ => bytes i, fun n => absurd n wrap.not_ge, fun _ ne => absurd equal ne,
      fun _ _ h => absurd last h.not_ge, fun _ _ _ => ⟨rfl, rfl, rfl⟩, row, ht⟩

end Sys2Proof.Machine
end

section
/-! PROOFS. A name from reset (R147): where the name accumulator stands after each fragment of one name in order. -/

namespace Sys2Proof.Machine

/-- The state after the first `k` fragments of the name `n` from reset, before its promotion: `rx_name` holds the first
`2 * k` characters, the first of `(k - 1) / 4` wraps made `n` the candidate, and every later one was counted (R147). -/
structure NameProgress (cfg : Config) (n : List Byte) (k : Nat) (s : State) : Prop where
  cfg_eq      : s.cfg = cfg
  sized       : s.Sized
  rxName      : ∀ i, i < cfg.nameLen → getByte s.name.rxName i = if i < 2 * k then getByte n i else cfg.fill
  candName    : s.name.candName = if k ≤ 4 then List.replicate cfg.nameLen cfg.fill else n
  nameCycles  : s.name.nameCycles.toNat = (k - 1) / 4 - 1
  nameLastOff : s.name.nameLastOff.toNat = (k - 1) % 4
  accName     : s.record.accName = List.replicate cfg.nameLen cfg.fill

section
variable {cfg : Config} {n : List Byte} {k : Nat} {bs : RawBlockSet} {s : State}

theorem powerUp_nameProgress (cfg : Config) (n : List Byte) : NameProgress cfg n 0 (.powerUp cfg) where
  cfg_eq := rfl
  sized := powerUp_sized cfg
  rxName _ hi := getByte_replicate cfg.fill hi
  candName := rfl
  nameCycles := rfl
  nameLastOff := rfl
  accName := rfl

/-- After a whole sweep `rx_name` is the name. -/
theorem NameProgress.rxName_eq (h : NameProgress cfg n k s) (hn : CarriableName cfg n) (hk : 4 ≤ k) :
    s.name.rxName = n := by
  have length : s.name.rxName.length = cfg.nameLen := by rw [h.sized.rxName, h.cfg_eq]
  refine eq_of_getByte (length.trans hn.length.symm) fun i hi => ?_
  rw [length] at hi
  rw [h.rxName i hi]
  split
  · rfl
  · exact (hn.rest i (by omega) hi).symm

/-- A name whose first fragment is accepted is not the reset contents where FILL is no accepted character (R147). -/
theorem CarriesName.ne_fill (h : CarriesName cfg n 0 bs) (legal : cfg.legal = true)
    (fill : charAccepted cfg cfg.fill = false) : n ≠ List.replicate cfg.nameLen cfg.fill := by
  rintro rfl
  obtain ⟨-, -, -, -, hlen, -⟩ := (legal_iff cfg).mp legal
  obtain ⟨hfirst, -⟩ : charAccepted cfg (hiByte bs.d) = true ∧ charAccepted cfg (loByte bs.d) = true := by
    simpa [pairAccepted] using h.accepted
  rw [h.first, getByte_replicate cfg.fill (by omega), fill] at hfirst
  cases hfirst

theorem whenStrict_samePart {f : State → State} {p : Part} (h : SamePart p s (f s)) :
    SamePart p s (whenStrict bs f s) := by
  unfold whenStrict; split
  · exact h
  · exact .rfl

/-- The UPDATE of an accepted fragment leaves the name elements as NAME_STEP does (R212). -/
theorem updateBlock_name_of_carriesName (h : CarriesName s.cfg n k bs) :
    (updateBlock bs s).name = (nameStep bs s).name ∧
      (updateBlock bs s).record.accName = (nameStep bs s).record.accName := by
  rw [updateBlock_of_not_skipped (tickSkipped_of_accepted s.cfg bs h.accepted), groupArms_of_group_zero h.group,
    whenName_of_usable bs s h.usable]
  have keeps : ∀ p, p ≠ .di → p ≠ .common →
      SamePart p (nameStep bs s) (whenStrict bs (diStep bs) (nameStep bs s)) ∧
      SamePart p (whenStrict bs (diStep bs) (nameStep bs s))
        (whenStrict bs (commonStep bs) (whenStrict bs (diStep bs) (nameStep bs s))) :=
    fun p hdi hcommon => ⟨whenStrict_samePart (diStep_samePart hdi), whenStrict_samePart (commonStep_samePart hcommon)⟩
  obtain ⟨name_di, name_common⟩ := keeps .name nofun nofun
  obtain ⟨acc_di, acc_common⟩ := keeps .accName nofun nofun
  exact ⟨name_common.trans name_di, acc_common.trans acc_di⟩

/-- A fragment of the run that wraps begins a sweep (R142). -/
theorem NameProgress.begins_sweep_of_wrap (h : NameProgress cfg n k s) (hbs : CarriesName cfg n k bs)
    (wrap : bs.seg2.toNat < s.name.nameLastOff.toNat) : k % 4 = 0 ∧ 4 ≤ k := by
  rw [hbs.segment, h.nameLastOff] at wrap; omega

section
variable (h : NameProgress cfg n k s) (legal : cfg.legal = true) (hn : CarriableName cfg n)
include h hn

/-- The first sweep differs from the reset contents of the candidate, every later one is equal to it (R147). -/
theorem NameProgress.rxName_eq_candName_iff (hfill : n ≠ List.replicate cfg.nameLen cfg.fill) (hk : 4 ≤ k) :
    s.name.rxName = s.name.candName ↔ 4 < k := by
  rw [h.rxName_eq hn hk, h.candName]
  split
  · exact iff_of_false hfill (by omega)
  · exact iff_of_true rfl (by omega)

include legal

/-- The next fragment extends the written part of `rx_name`, or writes what stands there. -/
theorem NameProgress.getByte_fragment (hbs : CarriesName cfg n k bs) {i : Nat} (hi : i < cfg.nameLen) :
    getByte (setPair s.name.rxName bs.namePos bs.d) i = if i < 2 * (k + 1) then getByte n i else cfg.fill := by
  rw [getByte_setPair_namePos (h.cfg_eq ▸ legal) h.sized, hbs.segment, hbs.first, hbs.second, h.rxName i hi]
  by_cases hfirst : i = 2 * (k % 4)
  · rw [if_pos hfirst, if_pos (by omega), hfirst]
  by_cases hsecond : i = 2 * (k % 4) + 1
  · rw [if_neg hfirst, if_pos hsecond, if_pos (by omega), hsecond]
  rw [if_neg hfirst, if_neg hsecond]
  split_ifs with hold hnew hnew
  · rfl
  · omega
  · exact (hn.rest i (by omega) hi).symm
  · rfl

/-- An UPDATE with the next fragment takes the accumulator one place further when the candidate and the counter it leaves
are those of that place and it does not promote. -/
theorem NameProgress.succ_of_fragment (hbs : CarriesName cfg n k bs) {cand : List Byte} {c : BitVec 8}
    (step : nameStep bs s = afterFragment bs s cand c s.record.accName)
    (hcand : cand = if k + 1 ≤ 4 then List.replicate cfg.nameLen cfg.fill else n) (hc : c.toNat = k / 4 - 1) :
    NameProgress cfg n (k + 1) (updateBlock bs s) := by
  obtain ⟨hname, hacc⟩ := updateBlock_name_of_carriesName (h.cfg_eq.symm ▸ hbs)
  obtain ⟨hcfg, -, -⟩ := updateBlock_samePort bs s
  rw [step] at hname hacc
  constructor
  case cfg_eq => exact hcfg.trans h.cfg_eq
  case sized => exact updateBlock_sized bs h.sized
  case rxName => rw [hname]; exact fun i hi => h.getByte_fragment legal hn hbs hi
  case candName => rw [hname]; exact hcand
  case nameCycles => rw [hname]; exact hc
  case nameLastOff => rw [hname]; exact hbs.segment
  case accName => exact hacc.trans h.accName

variable (hfill : n ≠ List.replicate cfg.nameLen cfg.fill)
include hfill

/-- Through VALIDITY + 1 complete sweeps no fragment promotes: only the first wrap finds a changed sweep, and the later ones
count fewer than VALIDITY (R147). -/
theorem NameProgress.succ (hbs : CarriesName cfg n k bs) (hk : k < 4 * (cfg.validity + 1)) :
    NameProgress cfg n (k + 1) (updateBlock bs s) := by
  have legal' : s.cfg.legal = true := h.cfg_eq ▸ legal
  have hcycles := h.nameCycles
  rcases nameStep_accepted_cases (h.cfg_eq ▸ hbs.accepted) with
    ⟨noWrap, step⟩ | ⟨wrap, changed, step⟩ | ⟨wrap, equal, below, step⟩ | ⟨wrap, equal, last, step⟩
  · rw [hbs.segment, h.nameLastOff] at noWrap
    refine h.succ_of_fragment legal hn hbs step ?_ (by omega)
    have same : k + 1 ≤ 4 ↔ k ≤ 4 := by omega
    simp only [h.candName, same]
  · obtain ⟨-, hsweep⟩ := h.begins_sweep_of_wrap hbs wrap
    have first : ¬ 4 < k := fun later => changed ((h.rxName_eq_candName_iff hn hfill hsweep).mpr later)
    refine h.succ_of_fragment legal hn hbs step ?_ ?_
    · rw [h.rxName_eq hn hsweep, if_neg (by omega)]
    · rw [BitVec.toNat_ofNat]; omega
  · obtain ⟨hbegin, hsweep⟩ := h.begins_sweep_of_wrap hbs wrap
    have later := (h.rxName_eq_candName_iff hn hfill hsweep).mp equal
    refine h.succ_of_fragment legal hn hbs step ?_ ?_
    · rw [← equal, h.rxName_eq hn hsweep, if_neg (by omega)]
    · rw [toNat_nameCycles_add_one legal' below]; omega
  · obtain ⟨hbegin, hsweep⟩ := h.begins_sweep_of_wrap hbs wrap
    have later := (h.rxName_eq_candName_iff hn hfill hsweep).mp equal
    rw [h.cfg_eq] at last
    omega

end

/-- The fragment after VALIDITY + 1 complete sweeps promotes the name and zeroes the counter (R144, R147). -/
theorem NameProgress.promotes (h : NameProgress cfg n (4 * (cfg.validity + 1)) s) (legal : cfg.legal = true)
    (hn : CarriableName cfg n) (hfill : n ≠ List.replicate cfg.nameLen cfg.fill)
    (hbs : CarriesName cfg n (4 * (cfg.validity + 1)) bs) :
    (updateBlock bs s).record.accName = n ∧ (updateBlock bs s).name.nameCycles = 0#8 := by
  obtain ⟨hvalidity, -⟩ := (legal_iff cfg).mp legal
  obtain ⟨hname, hacc⟩ := updateBlock_name_of_carriesName (h.cfg_eq.symm ▸ hbs)
  have hcycles := h.nameCycles
  have equal := (h.rxName_eq_candName_iff hn hfill (by omega)).mpr (by omega)
  rcases nameStep_accepted_cases (h.cfg_eq ▸ hbs.accepted) with
    ⟨noWrap, -⟩ | ⟨-, changed, -⟩ | ⟨-, -, below, -⟩ | ⟨-, -, -, step⟩
  · rw [hbs.segment, h.nameLastOff] at noWrap; omega
  · exact absurd equal changed
  · rw [h.cfg_eq] at below; omega
  · rw [step] at hname hacc
    exact ⟨hacc.trans (h.rxName_eq hn (by omega)), by rw [hname]; rfl⟩

end

/-! ### Runs of UPDATEs -/

theorem execAll_append {is : List Instr} {s t : State} (h : execAll is s = .next t) (js : List Instr) :
    execAll (is ++ js) s = execAll js t := by
  induction is generalizing s with
  | nil => cases h; rfl
  | cons i is ih =>
    obtain ⟨u, hu⟩ := exec_completes i s
    rw [execAll_cons hu] at h
    rw [List.cons_append, execAll_cons hu, ih h]

/-- What each UPDATE of a sequence carries one place further, the first `k` of them carry from place 0 to place `k`. -/
theorem execAll_updates_induction {P : Nat → State → Prop} {f : Nat → RawBlockSet} {s : State} (start : P 0 s)
    (k : Nat) (next : ∀ j t, j < k → P j t → P (j + 1) (updateBlock (f j) t)) :
    ∃ t, execAll ((List.range k).map fun j => .update (f j)) s = .next t ∧ P k t := by
  induction k with
  | zero => exact ⟨s, rfl, start⟩
  | succ k ih =>
    obtain ⟨t, run, ht⟩ := ih fun j t hj => next j t (by omega)
    refine ⟨updateBlock (f k) t, ?_, next k t (by omega) ht⟩
    rw [List.range_succ, List.map_append, execAll_append run]; rfl

/-! ### The obligations -/

/-- Settles O42, by induction on the fragments: each but the last keeps `NameProgress`, and the last promotes. -/
theorem nameIsAcceptedAfterValiditySweeps : Obligations.NameIsAcceptedAfterValiditySweeps := by
  intro cfg n f legal hn fill carries
  have hfill := (carries 0 (by omega)).ne_fill legal fill
  obtain ⟨t, run, ht⟩ := execAll_updates_induction (f := f) (powerUp_nameProgress cfg n) (4 * (cfg.validity + 1))
    fun j s hj hs => hs.succ legal hn hfill (carries j (by omega)) hj
  exact ⟨t, updateBlock (f (4 * (cfg.validity + 1))) t, run, ht.accName, rfl,
    ht.promotes legal hn hfill (carries _ (Nat.le_refl _))⟩

end Sys2Proof.Machine
end

section
/-! PROOFS. One text fragment (R160 to R167): what TEXT_STEP leaves, and the characters of each version. -/

namespace Sys2Proof.Machine

/-! ### TEXT_STEP -/

/-- `s` after a text fragment that leaves the buffer `rx`: the flag and the index are kept, a wrap promotes the old buffer
and a toggled flag sets `clear_screen` (R162, R163, R166, R167). -/
def afterTextFragment (bs : RawBlockSet) (s : State) (rx : List Byte) : State :=
  { s with
    text := { rxText := rx, textLastOff := bs.seg4, textAbLast := bs.textAb, textAbValid := true }
    record := { s.record with
      accText := if bs.seg4.toNat < s.text.textLastOff.toNat then s.text.rxText else s.record.accText
      clearScreen := if s.text.textAbValid = true ∧ bs.textAb ≠ s.text.textAbLast then true
                     else s.record.clearScreen } }

section
variable {bs : RawBlockSet} {s : State}

theorem textStep_eq_afterTextFragment (ver : Version) (bs : RawBlockSet) (s : State) :
    textStep ver bs s = afterTextFragment bs s (textFragment ver bs s.text.rxText) := by
  have clear : (s.record.clearScreen || textToggled bs s.text) =
      if textToggled bs s.text = true then true else s.record.clearScreen := by
    cases textToggled bs s.text
    · exact Bool.or_false _
    · exact Bool.or_true _
  simp only [textStep_eq, clear, textWrap_iff, textToggled_iff]; rfl

/-- TEXT_STEP under the strict verdict: what both rows of group 2 run, and the arm of UPDATE (R160). -/
theorem whenStrict_textStep_of_usable (ver : Version) (usable : usableStrict s.cfg bs = true) :
    whenStrict bs (textStep ver bs) s = afterTextFragment bs s (textFragment ver bs s.text.rxText) :=
  (whenStrict_of_usable bs s usable).trans (textStep_eq_afterTextFragment ver bs s)

/-- Every text fragment stays inside the buffer of a legal configuration (R65). -/
theorem length_rxText_gt (legal : s.cfg.legal = true) (sized : s.Sized) : 63 < s.text.rxText.length := by
  obtain ⟨-, -, -, -, -, hlen, -⟩ := (legal_iff s.cfg).mp legal
  rwa [sized.rxText]

end

/-! ### The characters of a fragment, in either version -/

/-- The characters a text fragment carries (R91, R164, R165). -/
def fragmentChars (ver : Version) (bs : RawBlockSet) : List Byte :=
  match ver with
  | .a => [hiByte bs.c, loByte bs.c, hiByte bs.d, loByte bs.d]
  | .b => [hiByte bs.d, loByte bs.d]

/-- How many characters a text fragment carries (R168, R169). -/
def fragmentWidth : Version → Nat
  | .a => 4
  | .b => 2

section
variable (ver : Version) (bs : RawBlockSet) {v : List Byte} (hv : 63 < v.length)
include hv

/-- The fragment of index `idx` stores its characters at `width * idx` and on (R164, R165). -/
theorem getByte_textFragment_written {c : Nat} (hc : c < fragmentWidth ver) :
    getByte (textFragment ver bs v) (fragmentWidth ver * bs.seg4.toNat + c) = getByte (fragmentChars ver bs) c := by
  cases ver with
  | a =>
    rw [getByte_textFragment_a bs v _ hv]
    simp only [fragmentWidth, RawBlockSet.textPosA] at hc ⊢
    interval_cases c <;> simp [fragmentChars, getByte]
  | b =>
    rw [getByte_textFragment_b bs v _ hv]
    simp only [fragmentWidth, RawBlockSet.textPosB] at hc ⊢
    interval_cases c <;> simp [fragmentChars, getByte]

/-- No other position is written (R164, R165). -/
theorem getByte_textFragment_outside {i : Nat}
    (hi : i < fragmentWidth ver * bs.seg4.toNat ∨ fragmentWidth ver * (bs.seg4.toNat + 1) ≤ i) :
    getByte (textFragment ver bs v) i = getByte v i := by
  cases ver with
  | a =>
    simp only [fragmentWidth] at hi
    rw [getByte_textFragment_a bs v i hv, RawBlockSet.textPosA, if_neg (by omega), if_neg (by omega),
      if_neg (by omega), if_neg (by omega)]
  | b =>
    simp only [fragmentWidth] at hi
    rw [getByte_textFragment_b bs v i hv, RawBlockSet.textPosB, if_neg (by omega), if_neg (by omega)]

end

/-! ### The obligations -/

/-- Settles O19: both rows are TEXT_STEP, whose buffer is known byte by byte; version B ends at position 31. -/
theorem textFragmentOfEachVersion : Obligations.TextFragmentOfEachVersion := by
  intro s bs legal sized usable
  have hlen := length_rxText_gt legal sized
  have length := fun ver => (length_textFragment ver bs s.text.rxText).trans sized.rxText
  refine ⟨⟨textFragment .a bs s.text.rxText, length .a, fun i _ => getByte_textFragment_a bs _ i hlen, ?_⟩,
    textFragment .b bs s.text.rxText, length .b, fun i _ => getByte_textFragment_b bs _ i hlen, fun i hi _ => ?_, ?_⟩
  · exact congrArg Host.Outcome.next (whenStrict_textStep_of_usable .a usable)
  · have := textPosB_lt bs
    refine getByte_textFragment_outside .b bs hlen (.inr ?_)
    simp only [fragmentWidth, RawBlockSet.textPosB] at this ⊢; omega
  · exact congrArg Host.Outcome.next (whenStrict_textStep_of_usable .b usable)

end Sys2Proof.Machine
end

section
/-! PROOFS. A complete text sweep (R163 to R169): where the text accumulator stands after each fragment in order, and what
the next wrap promotes. -/

namespace Sys2Proof.Machine

/-- `t` is the state after the first `k` fragments of a sweep of version `ver` from `s`: their characters stand in
`rx_text` from position 0 on, and behind them what stood there before (R164 to R166, R169). -/
structure TextProgress (ver : Version) (f : Nat → RawBlockSet) (s : State) (k : Nat) (t : State) : Prop where
  cfg_eq      : t.cfg = s.cfg
  sized       : t.Sized
  written     : ∀ j, j < k → ∀ c, c < fragmentWidth ver →
    getByte t.text.rxText (fragmentWidth ver * j + c) = getByte (fragmentChars ver (f j)) c
  rest        : ∀ i, fragmentWidth ver * k ≤ i → getByte t.text.rxText i = getByte s.text.rxText i
  textLastOff : 0 < k → t.text.textLastOff.toNat + 1 = k

section
variable {ver ver' : Version} {f : Nat → RawBlockSet} {bs : RawBlockSet} {s t : State} {j k : Nat}

theorem textProgress_zero (sized : s.Sized) : TextProgress ver f s 0 s where
  cfg_eq := rfl
  sized := sized
  written _ hj := absurd hj (Nat.not_lt_zero _)
  rest _ _ := rfl
  textLastOff hk := absurd hk (Nat.lt_irrefl 0)

theorem groupArms_of_group_two (h : bs.groupType = 2#4) (s : State) :
    groupArms bs s = whenStrict bs (textStep bs.version bs) s := by
  simp [groupArms, h]

/-- The UPDATE of a text fragment leaves the text accumulator and `acc_text` as TEXT_STEP does (R212). -/
theorem updateBlock_text_of_carriesText (h : CarriesText s.cfg ver k bs) :
    (updateBlock bs s).text = (afterTextFragment bs s (textFragment ver bs s.text.rxText)).text ∧
      (updateBlock bs s).record.accText =
        (afterTextFragment bs s (textFragment ver bs s.text.rxText)).record.accText := by
  have notZero : bs.groupType ≠ 0#4 := by rw [h.group]; decide
  rw [updateBlock_of_not_skipped (tickSkipped_of_group bs notZero), groupArms_of_group_two h.group,
    h.version, whenStrict_textStep_of_usable ver h.usable]
  have keeps : ∀ p, p ≠ .common → ∀ u : State, SamePart p u (whenStrict bs (commonStep bs) u) :=
    fun _ hp _ => whenStrict_samePart (commonStep_samePart hp)
  exact ⟨keeps .text nofun _, keeps .accText nofun _⟩

/-- The next fragment extends the written part of `rx_text` by its characters. -/
theorem TextProgress.succ (h : TextProgress ver f s k t) (legal : s.cfg.legal = true)
    (hbs : CarriesText s.cfg ver k (f k)) : TextProgress ver f s (k + 1) (updateBlock (f k) t) := by
  obtain ⟨htext, -⟩ := updateBlock_text_of_carriesText (h.cfg_eq.symm ▸ hbs)
  obtain ⟨hcfg, -, -⟩ := updateBlock_samePort (f k) t
  have hlen := length_rxText_gt (h.cfg_eq.symm ▸ legal) h.sized
  constructor
  case cfg_eq => exact hcfg.trans h.cfg_eq
  case sized => exact updateBlock_sized _ h.sized
  case written =>
    intro j hj c hc
    rw [htext]
    rcases Nat.lt_succ_iff_lt_or_eq.mp hj with earlier | rfl
    · have before : fragmentWidth ver * j + fragmentWidth ver ≤ fragmentWidth ver * k :=
        Nat.mul_le_mul_left _ earlier
      exact (getByte_textFragment_outside ver _ hlen (.inl (by rw [hbs.segment]; omega))).trans
        (h.written j earlier c hc)
    · have new := getByte_textFragment_written ver (f j) hlen hc
      rwa [hbs.segment] at new
  case rest =>
    intro i hi
    have after : fragmentWidth ver * k ≤ i := (Nat.mul_le_mul_left _ (Nat.le_succ k)).trans hi
    rw [htext]
    exact (getByte_textFragment_outside ver _ hlen (.inr (hbs.segment.symm ▸ hi))).trans (h.rest i after)
  case textLastOff => rw [htext]; exact fun _ => congrArg (· + 1) hbs.segment

/-- After a complete sweep any fragment but one of the last index wraps, and promotes the buffer (R162, R163). -/
theorem TextProgress.promotes (h : TextProgress ver f s 16 t) (hbs : CarriesText s.cfg ver' j bs) (hj : j < 15) :
    (updateBlock bs t).record.accText = t.text.rxText := by
  obtain ⟨-, hacc⟩ := updateBlock_text_of_carriesText (h.cfg_eq.symm ▸ hbs)
  have hlast := h.textLastOff (by omega)
  have wrap : bs.seg4.toNat < t.text.textLastOff.toNat := by rw [hbs.segment]; omega
  exact hacc.trans (if_pos wrap)

/-- Sixteen fragments in order and then one that wraps promote the buffer of a complete sweep, in either version. -/
theorem textSweep_promoted (legal : s.cfg.legal = true) (sized : s.Sized)
    (carries : ∀ k, k < 16 → CarriesText s.cfg ver k (f k)) (hbs : CarriesText s.cfg ver' j bs) (hj : j < 15) :
    ∃ t u, execAll (((List.range 16).map fun k => .update (f k)) ++ [.update bs]) s = .next u ∧
      TextProgress ver f s 16 t ∧ u.record.accText = t.text.rxText := by
  obtain ⟨t, run, ht⟩ := execAll_updates_induction (f := f) (textProgress_zero sized) 16
    fun k _ hk progress => progress.succ legal (carries k hk)
  exact ⟨t, updateBlock bs t, (execAll_append run _).trans (execAll_singleton rfl), ht, ht.promotes hbs hj⟩

end

/-! ### The obligations -/

/-- Settles O43: the promoted buffer is that of a complete version-A sweep. -/
theorem textSweepVersionAIsAccepted : Obligations.TextSweepVersionAIsAccepted := by
  intro s f last ver j legal sized carries hlast hj
  obtain ⟨t, u, run, ht, hacc⟩ := textSweep_promoted legal sized carries hlast hj
  refine ⟨u, run, fun k hk => ?_⟩
  have chars := ht.written k hk
  rw [hacc]
  exact ⟨chars 0 (by decide), chars 1 (by decide), chars 2 (by decide), chars 3 (by decide)⟩

/-- Settles O44: the promoted buffer is that of a complete version-B sweep, which ends before position 32. -/
theorem textSweepVersionBIsAccepted : Obligations.TextSweepVersionBIsAccepted := by
  intro s f last ver j legal sized carries hlast hj
  obtain ⟨t, u, run, ht, hacc⟩ := textSweep_promoted legal sized carries hlast hj
  refine ⟨u, run, fun k hk => ?_, fun i hi _ => ?_⟩
  · have chars := ht.written k hk
    rw [hacc]
    exact ⟨chars 0 (by decide), chars 1 (by decide)⟩
  · rw [hacc]; exact ht.rest i hi

end Sys2Proof.Machine
end

section
/-! PROOFS. The field extractors (R180 to R186, R190 to R193): the operand fields as numbers, and what each extractor
leaves. -/

namespace Sys2Proof

/-! ### The operand fields as numbers (R87, R88, R90, R92) -/

theorem toNat_extractLsb'_word (w : Word) (lo len : Nat) :
    (w.extractLsb' lo len).toNat = w.toNat / 2 ^ lo % 2 ^ len := by
  rw [BitVec.extractLsb'_toNat, Nat.shiftRight_eq_div_pow]

namespace RawBlockSet

variable (bs : RawBlockSet)

theorem country_toNat : bs.country.toNat = bs.a.toNat / 4096 := cmdOp_toNat bs.a

theorem area_toNat : bs.area.toNat = bs.a.toNat / 256 % 16 := cmdRsv_toNat bs.a

theorem ref_toNat : bs.ref.toNat = bs.a.toNat % 256 := cmdAddr_toNat bs.a

theorem pty_toNat : bs.pty.toNat = bs.b.toNat / 32 % 32 := toNat_extractLsb'_word bs.b 5 5

theorem slowLabel_toNat : bs.slowLabel.toNat = bs.c.toNat / 4096 % 8 := toNat_extractLsb'_word bs.c 12 3

theorem pinDay_toNat : bs.pinDay.toNat = bs.d.toNat / 2048 := by
  have field : bs.pinDay.toNat = bs.d.toNat / 2048 % 32 := toNat_extractLsb'_word bs.d 11 5
  have := bs.d.isLt
  omega

theorem pinHour_toNat : bs.pinHour.toNat = bs.d.toNat / 64 % 32 := toNat_extractLsb'_word bs.d 6 5

theorem pinMinute_toNat : bs.pinMinute.toNat = bs.d.toNat % 64 := by
  have field : bs.pinMinute.toNat = bs.d.toNat / 1 % 64 := toNat_extractLsb'_word bs.d 0 6
  rw [field, Nat.div_one]

theorem minute_toNat : bs.minute.toNat = bs.d.toNat / 64 % 64 := toNat_extractLsb'_word bs.d 6 6

/-- The hour is bit 0 of block C above the top four bits of block D (R94). -/
theorem hour_toNat : bs.hour.toNat = bs.c.toNat % 2 * 16 + bs.d.toNat / 4096 := by
  have high : (bs.c.extractLsb' 0 1).toNat = bs.c.toNat / 1 % 2 := toNat_extractLsb'_word bs.c 0 1
  have low : (bs.d.extractLsb' 12 4).toNat = bs.d.toNat / 4096 := cmdOp_toNat bs.d
  rw [hour, BitVec.toNat_append, ← Nat.shiftLeft_add_eq_or_of_lt (BitVec.isLt _), high, low, Nat.div_one,
    Nat.shiftLeft_eq]

theorem version_eq_b_iff_bit : bs.version = .b ↔ bs.b.getLsbD 11 = true := by
  rw [version_eq_b_iff, version_bit, decide_eq_true_iff]

end RawBlockSet

end Sys2Proof

namespace Sys2Proof.Machine

section
variable {bs : RawBlockSet} {s : State}

/-! ### The DI flag (R180, R181) -/

theorem exec_g0Di_of_usable (usable : usableStrict s.cfg bs = true) (unskipped : tickSkipped s.cfg bs = false) :
    exec (.g0Di bs) s = .next (s.withRecord (setDiFlag bs s.record)) := by
  rw [exec_g0Di_of_not_skipped unskipped, whenStrict_of_usable bs s usable, diStep]

theorem setDiFlag_of_segment_zero (h : bs.seg2.toNat = 0) (r : Record) :
    setDiFlag bs r = { r with dynPty := bs.di } := by
  simp only [setDiFlag, h]

theorem setDiFlag_of_segment_one (h : bs.seg2.toNat = 1) (r : Record) :
    setDiFlag bs r = { r with compressed := bs.di } := by
  simp only [setDiFlag, h]

theorem setDiFlag_of_segment_two (h : bs.seg2.toNat = 2) (r : Record) : setDiFlag bs r = r := by
  simp only [setDiFlag, h]

theorem setDiFlag_of_segment_three (h : bs.seg2.toNat = 3) (r : Record) :
    setDiFlag bs r = { r with stereo := bs.di } := by
  simp only [setDiFlag, h]

/-! ### The clock time (R185, R186) -/

theorem timeInRange_iff_toNat (bs : RawBlockSet) : timeInRange bs = true ↔
    bs.c.toNat % 2 * 16 + bs.d.toNat / 4096 ≤ 23 ∧ bs.d.toNat / 64 % 64 ≤ 59 := by
  rw [timeInRange_iff, bs.hour_toNat, bs.minute_toNat]

theorem exec_g4Ct_of_usable (usable : usableStrict s.cfg bs = true) :
    exec (.g4Ct bs) s = .next (clockStep bs s) :=
  congrArg Host.Outcome.next (whenStrict_of_usable bs s usable)

/-! ### The fields of every group (R190 to R192) -/

theorem refreshesTaMs_iff (cfg : Config) (bs : RawBlockSet) :
    refreshesTaMs cfg bs = true ↔ cfg.taMsAllGroups = true ∨ bs.groupType = 0#4 := by
  rw [refreshesTaMs, Bool.or_eq_true, decide_eq_true_iff]

theorem exec_common_of_usable (usable : usableStrict s.cfg bs = true) (unskipped : tickSkipped s.cfg bs = false) :
    exec (.common bs) s = .next (commonStep bs s) := by
  rw [exec_common_of_not_skipped unskipped, whenStrict_of_usable bs s usable]

/-! ### The groups without an arm (R193) -/

theorem armSet_of_mem_ignoredRows {i : Instr} (h : i ∈ ignoredRows bs) : i.armSet = some bs := by
  simp only [ignoredRows, List.mem_cons, List.not_mem_nil, or_false] at h
  rcases h with rfl | rfl | rfl | rfl | rfl | rfl | rfl | rfl | rfl | rfl | rfl | rfl <;> rfl

/-- The dispatch map gives a well-formed ignored row back (R95). -/
theorem groupRow_of_mem_ignoredRows {i : Instr} (h : i ∈ ignoredRows bs) (hwf : i.wf = true) : groupRow bs = i :=
  groupRow_of_wf (armSet_of_mem_ignoredRows h) hwf (by rintro rfl; simp [ignoredRows] at h)
    (by rintro rfl; simp [ignoredRows] at h)

/-- The groups whose row is ignored are not 0, 1, 2 or 4; the converse of `groupRow_mem_ignoredRows`. -/
theorem groupType_ne_of_ignored (h : groupRow bs ∈ ignoredRows bs) :
    bs.groupType ≠ 0#4 ∧ bs.groupType ≠ 1#4 ∧ bs.groupType ≠ 2#4 ∧ bs.groupType ≠ 4#4 := by
  refine ⟨fun h0 => ?_, fun h1 => ?_, fun h2 => ?_, fun h4 => ?_⟩
  · simp [groupRow_of_group_zero h0, ignoredRows] at h
  · simp [groupRow_of_group_one h1, ignoredRows] at h
  · cases hv : bs.version <;> simp [groupRow, h2, hv, ignoredRows] at h
  · simp [groupRow_of_group_four h4, ignoredRows] at h

theorem groupArms_of_ignored (h : groupRow bs ∈ ignoredRows bs) (s : State) : groupArms bs s = s := by
  obtain ⟨h0, h1, h2, h4⟩ := groupType_ne_of_ignored h
  rw [groupArms, if_neg h0, if_neg h1, if_neg h2, if_neg h4]

end

/-! ### The obligations -/

/-- Settles O16: G0_DI is then the one flag of its segment index. -/
theorem diFlagFollowsTheSegmentIndex : Obligations.DiFlagFollowsTheSegmentIndex := by
  intro s bs usable unskipped
  rw [exec_g0Di_of_usable usable unskipped]
  exact ⟨fun h => by rw [setDiFlag_of_segment_zero h]; rfl, fun h => by rw [setDiFlag_of_segment_one h]; rfl,
    fun h => by rw [setDiFlag_of_segment_two h]; rfl, fun h => by rw [setDiFlag_of_segment_three h]; rfl⟩

/-- Settles O17: the values stored are the fields of blocks C and D. -/
theorem slowLabelSetsEmergencyAndPin : Obligations.SlowLabelSetsEmergencyAndPin := by
  intro s bs usable
  refine ⟨emergencyOf s.cfg bs, bs.pinDay, bs.pinHour, bs.pinMinute, ?_, bs.pinDay_toNat, bs.pinHour_toNat,
    bs.pinMinute_toNat, congrArg Host.Outcome.next (whenStrict_of_usable bs s usable)⟩
  rw [emergencyOf_iff, ← BitVec.toNat_inj, bs.slowLabel_toNat]

/-- Settles O18: the range check of the model is the one on the numbers of blocks C and D. -/
theorem clockTimeIsStoredInRange : Obligations.ClockTimeIsStoredInRange := by
  intro s bs usable
  rw [exec_g4Ct_of_usable usable, clockStep]
  refine ⟨fun hour minute => ⟨bs.hour, bs.minute, bs.hour_toNat, bs.minute_toNat, ?_⟩, fun outside => ?_⟩
  · rw [if_pos ((timeInRange_iff_toNat bs).mpr ⟨hour, minute⟩)]; rfl
  · have notInRange : ¬ timeInRange bs = true := by rw [timeInRange_iff_toNat]; omega
    rw [if_neg notInRange]

/-- Settles O20: COMMON element by element; TA and M/S are those of block B exactly when they are refreshed. -/
theorem commonFieldsFollowBlocksAAndB : Obligations.CommonFieldsFollowBlocksAAndB := by
  intro s bs usable unskipped
  refine ⟨bs.country, bs.area, bs.ref, bs.pty, bs.version, if refreshesTaMs s.cfg bs then bs.ta else s.record.ta,
    if refreshesTaMs s.cfg bs then bs.ms else s.record.ms, bs.country_toNat, bs.area_toNat, bs.ref_toNat, bs.pty_toNat,
    bs.version_eq_b_iff_bit, fun refresh => ?_, fun notAll notZero => ?_, ?_⟩
  · have refreshed := (refreshesTaMs_iff s.cfg bs).mpr refresh
    exact ⟨if_pos refreshed, if_pos refreshed⟩
  · have notRefreshed : ¬ refreshesTaMs s.cfg bs = true := by
      rw [refreshesTaMs_iff, notAll]; exact not_or.mpr ⟨Bool.false_ne_true, notZero⟩
    exact ⟨if_neg notRefreshed, if_neg notRefreshed⟩
  · rw [exec_common_of_usable usable unskipped, commonStep_eq]; rfl

/-- Settles O21: without an arm the row, COMMON and UPDATE are all the common fields under the strict verdict. -/
theorem ignoredGroupsRunOnlyTheCommonFields : Obligations.IgnoredGroupsRunOnlyTheCommonFields := by
  intro s bs i hi hwf
  have hrow := groupRow_of_mem_ignoredRows hi hwf
  have ignored : groupRow bs ∈ ignoredRows bs := hrow ▸ hi
  obtain ⟨notZero, -⟩ := groupType_ne_of_ignored ignored
  have unskipped := tickSkipped_of_group (cfg := s.cfg) bs notZero
  have update : updateBlock bs s = ignoredGroup bs s := by
    rw [updateBlock_of_not_skipped unskipped, groupArms_of_ignored ignored, ignoredGroup]
  have keeps : ∀ p, p ≠ .common → SamePart p s (ignoredGroup bs s) :=
    fun _ hp => whenStrict_samePart (commonStep_samePart hp)
  refine ⟨hrow, ⟨ignoredGroup bs s, exec_ignoredRow hi s, exec_common_of_not_skipped unskipped,
    congrArg Host.Outcome.next update, keeps .name nofun, keeps .text nofun⟩, fun unusable => ?_⟩
  rw [exec_ignoredRow hi, ignoredGroup, whenStrict_of_unusable bs s unusable]

end Sys2Proof.Machine
end

section
/-! PROOFS. The commands (R210 to R213, R216, R218): NOP and READ, what every command answers, and the clauses of
R213 about UPDATE. -/

namespace Sys2Proof.Machine

/-- The READ word as R97 writes it. -/
theorem read_word_eq_or (addr : BitVec 8) : (0x30#8 ++ addr : Word) = 0x3000#16 ||| addr.setWidth 16 := by
  rw [BitVec.append_def, BitVec.setWidth'_eq]; rfl

section
variable {bs : RawBlockSet} {s : State} {i j : Instr} {f g : State → State}

/-! ### The name verdict alone (R213, clause b) -/

/-- Outside group 0 every row of an UPDATE needs the strict verdict (R127). -/
theorem exec_update_of_group_ne_zero_of_not_usableStrict (h0 : bs.groupType ≠ 0#4)
    (hstrict : usableStrict s.cfg bs = false) : exec (.update bs) s = .next s := by
  have notName : Instr.g0PsDi bs ∉ rowsOf bs := fun mem =>
    h0 (BitVec.eq_of_toNat_eq ((wf_iff_groupType rfl rfl rfl).mp (wf_of_mem_rowsOf mem)))
  refine (execAll_rowsOf bs s).symm.trans (execAll_of_forall_eq_self fun i hi => ?_)
  exact exec_row_of_not_usableStrict (armSet_of_mem_rowsOf hi) (fun e => notName (e ▸ hi)) hstrict

/-- A skipped name pair is a rejected one, which NAME_STEP leaves too (R141). -/
theorem nameStep_of_skipped (h : tickSkipped s.cfg bs = true) : nameStep bs s = s := by
  rcases nameStep_cases bs s with ⟨-, e⟩ | ⟨accepted, -⟩ | ⟨accepted, -⟩
  · exact e
  all_goals rw [tickSkipped_of_accepted s.cfg bs accepted] at h; cases h

/-- The UPDATE of group 0 is then NAME_STEP, which changes the name elements and `acc_name` alone (R127, R140). -/
theorem updateBlock_eq_nameStep (h0 : bs.groupType = 0#4) (hname : usableName s.cfg bs = true)
    (hstrict : usableStrict s.cfg bs = false) : updateBlock bs s = nameStep bs s := by
  cases hskip : tickSkipped s.cfg bs
  · obtain ⟨hcfg, -, -⟩ := nameStep_samePort bs s
    have unusable : ∀ f, whenStrict bs f (nameStep bs s) = nameStep bs s :=
      fun _ => whenStrict_of_unusable bs _ (hcfg ▸ hstrict)
    rw [updateBlock_of_not_skipped hskip, groupArms_of_group_zero h0, whenName_of_usable bs s hname, unusable, unusable]
  · rw [nameStep_of_skipped hskip, updateBlock, if_pos hskip]

/-! ### The order among the arms (R213, clause e) -/

/-- Arms that commute commute under the guard of R141 too. -/
theorem unlessSkipped_commute (hf : ∀ s, SamePort s (f s)) (hg : ∀ s, SamePort s (g s)) (h : Function.Commute f g) :
    Function.Commute (unlessSkipped bs f) (unlessSkipped bs g) := by
  intro s
  obtain ⟨hfcfg, -, -⟩ := hf s
  obtain ⟨hgcfg, -, -⟩ := hg s
  cases hskip : tickSkipped s.cfg bs
  · rw [unlessSkipped_of_not_skipped hskip, unlessSkipped_of_not_skipped hskip,
      unlessSkipped_of_not_skipped (hgcfg ▸ hskip), unlessSkipped_of_not_skipped (hfcfg ▸ hskip), h s]
  · rw [unlessSkipped_of_skipped hskip, unlessSkipped_of_skipped hskip, unlessSkipped_of_skipped hskip]

/-- `i` and `j` give one outcome from `s` in either order. -/
def Interchange (s : State) (i j : Instr) : Prop := execAll [i, j] s = execAll [j, i] s

/-- Instructions whose effects commute can be interchanged. -/
theorem interchange_of_commute (hi : ∀ s, exec i s = .next (f s)) (hj : ∀ s, exec j s = .next (g s))
    (h : Function.Commute f g) : Interchange s i j := by
  rw [Interchange, execAll_cons (hi s), execAll_singleton (hj _), execAll_cons (hj s), execAll_singleton (hi _), h s]

theorem commonArm_samePort (bs : RawBlockSet) (s : State) : SamePort s (whenStrict bs (commonStep bs) s) :=
  whenStrict_samePort bs s (commonStep_samePort bs)

theorem diArm_samePort (bs : RawBlockSet) (s : State) : SamePort s (whenStrict bs (diStep bs) s) :=
  whenStrict_samePort bs s (diStep_samePort bs)

theorem groupArms_commute_commonArm (bs : RawBlockSet) :
    Function.Commute (groupArms bs) (whenStrict bs (commonStep bs)) :=
  (whenStrict_commute (groupArms_samePort bs) (groupArms_commute_commonStep bs).symm).symm

theorem diArm_commute_commonArm (bs : RawBlockSet) :
    Function.Commute (whenStrict bs (diStep bs)) (whenStrict bs (commonStep bs)) :=
  whenStrict_commute (commonArm_samePort bs)
    (whenStrict_commute (diStep_samePort bs) (diStep_commute_commonStep bs).symm).symm

/-- In group 0 the second arm, G0_DI, commutes with both arms together (90_conflicts.md C3). -/
theorem groupArms_commute_diArm (h0 : bs.groupType = 0#4) :
    Function.Commute (groupArms bs) (whenStrict bs (diStep bs)) := by
  have name : Function.Commute (whenName bs (nameStep bs)) (whenStrict bs (diStep bs)) :=
    whenName_commute (diArm_samePort bs)
      (whenStrict_commute (nameStep_samePort bs) (nameStep_commute_diStep bs).symm).symm
  rw [funext (groupArms_of_group_zero h0)]
  exact (Function.Commute.refl _).comp_left name

theorem exec_g0PsDi_of_group_zero (h0 : bs.groupType = 0#4) (s : State) :
    exec (.g0PsDi bs) s = .next (unlessSkipped bs (groupArms bs) s) := by
  rw [funext (groupArms_of_group_zero h0)]; rfl

/-- After COMMON the row of a group does what the group's arm does: a row without an arm repeats COMMON (R193). -/
theorem exec_groupRow_after_common (h0 : bs.groupType ≠ 0#4) (s : State) :
    exec (groupRow bs) (whenStrict bs (commonStep bs) s) =
      .next (groupArms bs (whenStrict bs (commonStep bs) s)) := by
  rcases exec_groupRow_cases h0 (whenStrict bs (commonStep bs) s) with h | ⟨arms, h⟩
  · exact h
  · rw [h, arms, whenStrict_whenStrict (commonStep_samePort bs) (commonStep_commonStep bs)]

/-- The row of another group and COMMON, in either order, are UPDATE (R95). -/
theorem groupRow_interchange_common (h0 : bs.groupType ≠ 0#4) (s : State) :
    Interchange s (groupRow bs) (.common bs) := by
  have common := exec_common_of_not_skipped (s := s) (tickSkipped_of_group bs h0)
  have rows := execAll_rowsOf_of_group_ne_zero (s := s) h0
  rw [rowsOf_of_group_ne_zero h0] at rows
  rw [Interchange, rows, execAll_cons common, execAll_singleton (exec_groupRow_after_common h0 s),
    groupArms_commute_commonArm bs s]

/-- Each row of a block set can be interchanged with every later one. -/
theorem rowsOf_pairwise_interchange (bs : RawBlockSet) (s : State) : (rowsOf bs).Pairwise (Interchange s) := by
  by_cases h0 : bs.groupType = 0#4
  · have both := exec_g0PsDi_of_group_zero h0
    have di : ∀ t, exec (.g0Di bs) t = .next (unlessSkipped bs (whenStrict bs (diStep bs)) t) := fun _ => rfl
    have common : ∀ t, exec (.common bs) t = .next (unlessSkipped bs (whenStrict bs (commonStep bs)) t) := fun _ => rfl
    have both_di : Interchange s (.g0PsDi bs) (.g0Di bs) := interchange_of_commute both di
      (unlessSkipped_commute (groupArms_samePort bs) (diArm_samePort bs) (groupArms_commute_diArm h0))
    have both_common : Interchange s (.g0PsDi bs) (.common bs) := interchange_of_commute both common
      (unlessSkipped_commute (groupArms_samePort bs) (commonArm_samePort bs) (groupArms_commute_commonArm bs))
    have di_common : Interchange s (.g0Di bs) (.common bs) := interchange_of_commute di common
      (unlessSkipped_commute (diArm_samePort bs) (commonArm_samePort bs) (diArm_commute_commonArm bs))
    rw [rowsOf_of_group_zero h0]
    simp [both_di, both_common, di_common]
  · rw [rowsOf_of_group_ne_zero h0]
    exact List.pairwise_pair.mpr (groupRow_interchange_common h0 s)

end

/-! ### The obligations -/

/-- Settles O3, from the word of NOP and its meaning. -/
theorem nopLeavesTheStateUnchanged : Obligations.NopLeavesTheStateUnchanged := ⟨rfl, fun _ => rfl⟩

/-- Settles O5: at CLRSCR the flag is cleared, at any other address the response alone is written. -/
theorem readChangesOnlyClearScreen : Obligations.ReadChangesOnlyClearScreen := by
  intro s addr
  refine ⟨congrArg (fun w : Word => [w]) (read_word_eq_or addr), ?_⟩
  rw [exec_read]
  by_cases h : addr = 0x03#8
  · subst h; rfl
  · rw [readRegister_of_ne s h, if_neg h]; rfl

/-- Settles O26, instruction by instruction. -/
theorem everyInstructionCompletes : Obligations.EveryInstructionCompletes := exec_completes

/-- Settles O33, from what a step does with the words of a command pending. -/
theorem stepRunsTheDecodedCommand : Obligations.StepRunsTheDecodedCommand := by
  intro s i rest legal h
  exact step_of_command legal h

/-- Settles O13: another group has no row under the name verdict alone, and group 0 has NAME_STEP alone. -/
theorem nameVerdictAloneReachesOnlyTheName : Obligations.NameVerdictAloneReachesOnlyTheName := by
  intro s bs hname hstrict
  refine ⟨fun h0 => exec_update_of_group_ne_zero_of_not_usableStrict h0 hstrict, fun h0 => ?_⟩
  obtain ⟨n, acc, step⟩ := nameStep_frame bs s
  exact ⟨n, acc, congrArg Host.Outcome.next ((updateBlock_eq_nameStep h0 hname hstrict).trans step)⟩

/-- Settles O23: interchanging is reflexive and symmetric, so the pairs in table order are enough. -/
theorem armOrderDoesNotMatter : Obligations.ArmOrderDoesNotMatter := by
  intro s bs i j hi hj
  have symmetric : Std.Symm (Interchange s) := ⟨fun _ _ => Eq.symm⟩
  have all : ∀ i ∈ rowsOf bs, ∀ j ∈ rowsOf bs, Interchange s i j :=
    (rowsOf_pairwise_interchange bs s).forall_of_forall fun _ _ => rfl
  exact all i hi j hj

/-- Settles O25: UPDATE is none of the two commands that clear the flag. -/
theorem updateNeverClearsClearScreen : Obligations.UpdateNeverClearsClearScreen := by
  intro s bs
  refine ⟨updateBlock bs s, rfl, fun before => ?_⟩
  by_contra after
  obtain ⟨-, clears⟩ := clearScreenWriters (.update bs) s (updateBlock bs s) rfl
  rcases clears before (Bool.eq_false_of_not_eq_true after) with ⟨⟨⟩⟩ | ⟨⟨⟩⟩

end Sys2Proof.Machine
end

section
/-! PROOFS. Reset and hazards (R260, R262, R263): RESET forgets everything but the parameters, the words pending and the
response, and a step without a whole command waits or refuses. -/

namespace Sys2Proof

/-- After an UPDATE word fewer words than a payload are no command (R85). -/
theorem decode_update_word_of_length_lt {ws : List Word} (h : ws.length < 6) :
    decode (0x1000#16 :: ws) = .error .incompleteCommand := by
  rcases decode_update_word_cases ws with hdecode | ⟨bs, rest, rfl⟩
  · exact hdecode
  · rw [List.length_append] at h
    exact absurd h (Nat.not_lt.mpr (Nat.le_add_right 6 rest.length))

end Sys2Proof

namespace Sys2Proof.Machine

section
variable {s t : State}

theorem exec_reset (s : State) : exec .reset s = .next (resetBlock s) := rfl

/-- What RESET leaves is a function of the fields it keeps (R262). -/
theorem resetBlock_eq_of_samePort (h : SamePort s t) : resetBlock t = resetBlock s := by
  obtain ⟨cfg, pending, response⟩ := h
  unfold resetBlock
  rw [cfg]
  exact State.ext_fields cfg rfl rfl rfl pending response

theorem resetBlock_resetBlock (s : State) : resetBlock (resetBlock s) = resetBlock s :=
  resetBlock_eq_of_samePort (resetBlock_samePort s)

/-- A step without a command waits (R263, log 8). -/
theorem step_of_noCommand (legal : s.cfg.legal = true) (h : decode s.pending = .error .noCommand) :
    step s = .next s := by
  unfold step fetch
  rw [if_pos legal, h]

/-- A step with a part of an UPDATE refuses it (log 9). -/
theorem step_of_incompleteCommand (legal : s.cfg.legal = true) (h : decode s.pending = .error .incompleteCommand) :
    step s = .refused .incompleteCommand := by
  unfold step fetch
  rw [if_pos legal, h]

end

/-! ### The obligations -/

/-- Settles O1: power-up and RESET write the reset value of every element, and RESET keeps the parameters it reads. -/
theorem resetGivesTheResetState : Obligations.ResetGivesTheResetState := by
  refine ⟨fun cfg => ⟨powerUp_isReset cfg, rfl⟩, ⟨powerUp_isReset .default, rfl⟩, rfl, fun s => ?_⟩
  have again : exec .reset (resetBlock s) = .next (resetBlock s) := by
    rw [exec_reset, resetBlock_resetBlock]
  obtain ⟨cfg, -⟩ := resetBlock_samePort s
  exact ⟨resetBlock s, exec_reset s, resetBlock_isReset s, cfg, again⟩

/-- Settles O2: the two states agree in every field that RESET keeps. -/
theorem nothingBeforeResetSurvives : Obligations.NothingBeforeResetSurvives := by
  intro s s' cfg pending response
  have same : resetBlock s = resetBlock s' := resetBlock_eq_of_samePort ⟨cfg, pending, response⟩
  exact ⟨resetBlock s, exec_reset s, by rw [exec_reset, same]⟩

/-- Settles O35: the decoder finds no command in no words, and an incomplete one after a lone UPDATE word. -/
theorem stepWithoutAWholeCommand : Obligations.StepWithoutAWholeCommand := by
  intro s legal
  refine ⟨fun empty => ?_, fun ws words short => ?_⟩
  · exact step_of_noCommand legal (by rw [empty, decode_nil])
  · exact step_of_incompleteCommand legal (by rw [words, decode_update_word_of_length_lt short])

end Sys2Proof.Machine
end
